-- ==== Sys2Proof/Word.lean ====
section
/-! DEFINITION. The word types of the block and the pair of things kept once per channel.
Widths: a register, a pin vector and a data field are one byte (00_scope.md R13, 20_memory.md R65); a stimulus word has
20 bits (30_encoding.md R80). -/

namespace Sys2Proof

/-- Eight bits, numbered 7 down to 0 (R13). Pin b of a port is bit b of every per-pin register of that port. -/
abbrev Byte := BitVec 8

/-- One stimulus word `W` (R80). -/
abbrev StimWord := BitVec 20

/-- The channel index i of `EIC[i]`, `H[i]`, `INTC.PRI[i]` (00_scope.md R2): `c0` is the two-button group, `c1` the
four-button group. -/
inductive Chan where
  | c0
  | c1
deriving DecidableEq, Repr, Inhabited

/-- The other channel, `1 - i` (41_edge_channel_operation.md R145). -/
def Chan.other : Chan → Chan
  | .c0 => .c1
  | .c1 => .c0

/-- One value for each channel. -/
structure PerChan (α : Type) where
  c0 : α
  c1 : α
deriving DecidableEq, Repr, Inhabited

/-- The value of channel i. -/
def PerChan.get {α : Type} (x : PerChan α) : Chan → α
  | .c0 => x.c0
  | .c1 => x.c1

/-- The pair with channel i's value replaced. -/
def PerChan.set {α : Type} (x : PerChan α) (i : Chan) (v : α) : PerChan α :=
  match i with
  | .c0 => { x with c0 := v }
  | .c1 => { x with c1 := v }

/-- The same value for both channels. -/
def PerChan.both {α : Type} (v : α) : PerChan α := ⟨v, v⟩

/-- `popcount(v)`, the number of set bits (R13). -/
def popcount (v : Byte) : Nat := (List.range 8).countP v.getLsbD

/-- The byte with only bit n set, `1 << n` for n in 0..7 (R13). -/
def oneHot (n : Fin 8) : Byte := 1#8 <<< n.val

end Sys2Proof
end

