-- ==== Sys2Proof/Config.lean ====
section
/-! DEFINITION. What the spec leaves open: the parameters of the block (00_scope.md R7, R8) and the values of its
`draw`s (R15). Each is an opaque constant, so nothing can be proved about its value beyond what R8 says. The bodies of the
caller-supplied callbacks, which take the state, are in Machine/Dispatcher.lean. -/

namespace Sys2Proof

/-- The open parameters of 00_scope.md R7. `statusMaskOpen` and `ackMaskOpen` are read only where `xport` is true (R149).
`preempts.get a` says whether `HANDLER a` may step between two steps of the other channel's handler (60_exceptions.md
R214). PORT, IRQLINE and CLKBIT have no field (log entry 17). -/
structure Params where
  mask : PerChan Byte
  prio : PerChan Byte
  xport : PerChan Bool
  statusMaskOpen : PerChan Byte
  ackMaskOpen : PerChan Byte
  hardenedInit : Bool
  preempts : PerChan Bool
  codeInc : Byte
  codeDec : Byte
  codeToggle : Byte
  ledBit : Fin 8
deriving DecidableEq, Repr, Inhabited

/-- R8: MASK[0] has exactly two bits set and MASK[1] exactly four. -/
def Params.masksOk (p : Params) : Bool := popcount p.mask.c0 == 2 && popcount p.mask.c1 == 4

/-- R8: each recognised code has exactly one bit set. -/
def Params.codesOneBit (p : Params) : Bool :=
  popcount p.codeInc == 1 && popcount p.codeDec == 1 && popcount p.codeToggle == 1

/-- R8: CODE_INC differs from CODE_DEC. -/
def Params.codesDiffer (p : Params) : Bool := p.codeInc != p.codeDec

/-- The constraints of R8 on the open parameters. -/
def Params.ok (p : Params) : Bool := p.masksOk && p.codesOneBit && p.codesDiffer

/-- The example parameter set EX of 00_scope.md R9: for examples and tests, "not the hardware's values". R9 gives no value for
`preempts`: true both ways is the model's own (DESIGN CHOICE, log entry 23), the interleaving that 60_exceptions.md R214 calls
the safe model. -/
def Params.ex : Params where
  mask := ⟨0x03#8, 0x0F#8⟩
  prio := .both 0x00#8
  xport := .both false
  statusMaskOpen := ⟨0x03#8, 0x0F#8⟩
  ackMaskOpen := ⟨0x03#8, 0x0F#8⟩
  hardenedInit := false
  preempts := .both true
  codeInc := 0x01#8
  codeDec := 0x02#8
  codeToggle := 0x01#8
  ledBit := 0

/-- STATUS_MASK[i] of R7: MASK[i], and an open byte only when XPORT[i] is true (R149). -/
def Params.statusMask (p : Params) (i : Chan) : Byte :=
  if p.xport.get i then p.statusMaskOpen.get i else p.mask.get i

/-- ACK_MASK[i] of R7: MASK[i], and an open byte only when XPORT[i] is true (R149). -/
def Params.ackMask (p : Params) (i : Chan) : Byte :=
  if p.xport.get i then p.ackMaskOpen.get i else p.mask.get i

/-- The port the handler of channel i samples: `j` of 41_edge_channel_operation.md R145. -/
def Params.samplePort (p : Params) (i : Chan) : Chan := if p.xport.get i then i.other else i

/-- Any parameter set whatever. -/
opaque Config.rawParams : Params

/-- The parameters of the machine: any set that meets R8. (`rawParams` is unconstrained; where it breaks R8 the set EX
stands in, so that `params` ranges over exactly the sets that meet R8, log entry 5.) -/
def Config.params : Params := if Config.rawParams.ok then Config.rawParams else Params.ex

/-- The pin levels at power-on, "an arbitrary byte chosen by the environment" (70_reset_and_hazards.md R231), log entry 4. -/
opaque Config.launchPin : Chan → Byte

/-- The parts of the block that draw: a channel (10_state.md R34, R35), and the dispatcher (log entry 14). Each has draws of its
own, so that stimuli on different parts write disjoint state (60_exceptions.md R213). -/
inductive DrawSite where
  | eic (i : Chan)
  | dsp
deriving DecidableEq, Repr

/-- The values of the `draw`s (R15): the byte drawn at draw number n of a part of the block; each `RIS[b] <- draw` and each
drawn `DATA[b]` takes bit b of it, log entry 3. -/
opaque Config.draw : DrawSite → Nat → Byte

end Sys2Proof
end

