-- ==== Sys2Proof/Syntax.lean ====
section
/-! DEFINITION. The registers of the block (20_memory.md R62) and its stimuli: one constructor of `Instr` for each of the
39 rows of spec/opcode_table.json (30_encoding.md R93). Operands stand in the types of their fields (R82, R83), so every
term of `Instr` is well formed. -/

namespace Sys2Proof

/-- The assigned registers, 20_memory.md R62. -/
inductive Reg where
  | data (i : Chan)
  | dir (i : Chan)
  | afsel (i : Chan)
  | den (i : Chan)
  | pull (i : Chan)
  | sense (i : Chan)
  | ibe (i : Chan)
  | iev (i : Chan)
  | ris (i : Chan)
  | mis (i : Chan)
  | icr (i : Chan)
  | im (i : Chan)
  | clken (i : Chan)
  | start
  | rstreq
  | msel
  | ms
  | sec
  | min
  | seten
  | pri (n : Chan)
deriving DecidableEq, Repr

/-- The stimuli with a row in the opcode table. -/
inductive Instr where
  | rdData (i : Chan)
  | rdDir (i : Chan)
  | wrDir (i : Chan) (d : Byte)
  | rdAfsel (i : Chan)
  | wrAfsel (i : Chan) (d : Byte)
  | rdDen (i : Chan)
  | wrDen (i : Chan) (d : Byte)
  | rdPull (i : Chan)
  | wrPull (i : Chan) (d : Byte)
  | rdIs (i : Chan)
  | wrIs (i : Chan) (d : Byte)
  | rdIbe (i : Chan)
  | wrIbe (i : Chan) (d : Byte)
  | rdIev (i : Chan)
  | wrIev (i : Chan) (d : Byte)
  | rdRis (i : Chan)
  | rdMis (i : Chan)
  | wrIcr (i : Chan) (d : Byte)
  | rdIm (i : Chan)
  | wrIm (i : Chan) (d : Byte)
  | rdClken (i : Chan)
  | wrClken (i : Chan) (d : Byte)
  | rdStart
  | wrStart (d : Byte)
  | rdRstreq
  | wrRstreq (d : Byte)
  | rdMsel
  | rdMs
  | rdSec
  | rdMin
  | rdSeten
  | wrSeten (d : Byte)
  | rdPri (n : Chan)
  | wrPri (n : Chan) (d : Byte)
  | pin (i : Chan) (p : Byte)
  | tick
  | reset
  | setcb (i : Chan) (c : Byte)
  | call (i : Chan) (s : Byte)
deriving DecidableEq, Repr

end Sys2Proof
end

