-- ==== Sys2Proof/WellFormed.lean ====
section
/-! DEFINITION. Which 20-bit words spell a stimulus: the kind is not reserved (30_encoding.md R85) and the must-be-zero
fields are zero (R84). Terms of `Instr` need no check: each operand has the type of its field. The checks on the open
parameters (00_scope.md R8) stand in Config.lean. -/

namespace Sys2Proof

/-- R85: `K` in 0x7..0xF spells no stimulus. -/
def wordKindOk (w : StimWord) : Bool := decide ((w.extractLsb' 16 4).toNat < 7)

/-- R84: `RD` needs `D = 0x00`. -/
def wordReadOk (w : StimWord) : Bool := w.extractLsb' 16 4 != 0#4 || w.extractLsb' 0 8 == 0#8

/-- R84: `TICK` and `RESET` need `A = 0x00` and `D = 0x00`. -/
def wordPlainOk (w : StimWord) : Bool :=
  (w.extractLsb' 16 4 != 3#4 && w.extractLsb' 16 4 != 4#4) || w.extractLsb' 0 16 == 0#16

/-- R84: `PIN`, `SETCB` and `CALL` need `A[7:1] = 0`. -/
def wordIndexOk (w : StimWord) : Bool :=
  (w.extractLsb' 16 4 != 2#4 && w.extractLsb' 16 4 != 5#4 && w.extractLsb' 16 4 != 6#4) || w.extractLsb' 9 7 == 0#7

/-- The word spells a stimulus (R92). -/
def wordOk (w : StimWord) : Bool := wordKindOk w && wordReadOk w && wordPlainOk w && wordIndexOk w

end Sys2Proof
end

