-- ==== Sys2Proof/Decode.lean ====
section
/-! DEFINITION. The decoder, total on 20-bit words (30_encoding.md R92), the address map it uses (20_memory.md R62), the
encoder, and the rows of the opcode table (30_encoding.md R93). -/

namespace Sys2Proof

/-- Why a word is `invalid` (R84, R85). -/
inductive Invalid where
  /-- `K` in 0x7..0xF. -/
  | reservedKind
  /-- `RD` with `D` not zero. -/
  | readData
  /-- `TICK` or `RESET` with `A` or `D` not zero. -/
  | strayField
  /-- `PIN`, `SETCB` or `CALL` with `A[7:1]` not zero. -/
  | channelIndex
deriving DecidableEq, Repr

/-- The decoder's verdict on a word (R92). `badRead` and `badWrite` are the well-formed `RD` and `WR` stimuli with no row
in the opcode table, which the machine answers with BusError (R86). -/
inductive Decoded where
  | instr (i : Instr)
  | badRead (a : Byte)
  | badWrite (a : Byte) (v : Byte)
  | invalid (why : Invalid)
deriving DecidableEq, Repr

/-! ## Fields -/

/-- `W[19:16]` (R80). -/
def fieldK (w : StimWord) : BitVec 4 := w.extractLsb' 16 4

/-- `W[15:8]` (R80). -/
def fieldA (w : StimWord) : Byte := w.extractLsb' 8 8

/-- `W[7:0]` (R80). -/
def fieldD (w : StimWord) : Byte := w.extractLsb' 0 8

/-- The word of three fields (R80). -/
def stimWord (k : BitVec 4) (a d : Byte) : StimWord := k ++ a ++ d

/-- A one-bit index as a channel. -/
def Chan.ofBit (b : Bool) : Chan := if b then .c1 else .c0

/-- A channel as the low bit of a byte. -/
def Chan.byte : Chan → Byte
  | .c0 => 0x00#8
  | .c1 => 0x01#8

/-! ## The address map (20_memory.md R62) -/

/-- The register at offset `A[5:0]` of channel i. -/
def chanReg (i : Chan) : Nat → Option Reg
  | 0x00 => some (.data i)
  | 0x01 => some (.dir i)
  | 0x02 => some (.afsel i)
  | 0x03 => some (.den i)
  | 0x04 => some (.pull i)
  | 0x05 => some (.sense i)
  | 0x06 => some (.ibe i)
  | 0x07 => some (.iev i)
  | 0x08 => some (.ris i)
  | 0x09 => some (.mis i)
  | 0x0A => some (.icr i)
  | 0x0B => some (.im i)
  | 0x0C => some (.clken i)
  | _ => none

/-- The register at offset `A[5:0]` of the accumulator. -/
def ptaReg : Nat → Option Reg
  | 0 => some .start
  | 1 => some .rstreq
  | 2 => some .msel
  | 3 => some .ms
  | 4 => some .sec
  | 5 => some .min
  | _ => none

/-- The register at offset `A[5:0]` of the interrupt controller. -/
def intcReg : Nat → Option Reg
  | 0 => some .seten
  | 2 => some (.pri .c0)
  | 3 => some (.pri .c1)
  | _ => none

/-- The register at an address: bits [7:6] select the unit, bits [5:0] the register within it. -/
def Reg.ofAddr (a : Byte) : Option Reg :=
  match (a.extractLsb' 6 2).toNat with
  | 0 => chanReg .c0 (a.extractLsb' 0 6).toNat
  | 1 => chanReg .c1 (a.extractLsb' 0 6).toNat
  | 2 => ptaReg (a.extractLsb' 0 6).toNat
  | _ => intcReg (a.extractLsb' 0 6).toNat

/-- The base address of channel i, `0x40 * i`. -/
def chanBase : Chan → Byte
  | .c0 => 0x00#8
  | .c1 => 0x40#8

/-- The address of a register. -/
def Reg.addr : Reg → Byte
  | .data i => chanBase i
  | .dir i => chanBase i + 0x01#8
  | .afsel i => chanBase i + 0x02#8
  | .den i => chanBase i + 0x03#8
  | .pull i => chanBase i + 0x04#8
  | .sense i => chanBase i + 0x05#8
  | .ibe i => chanBase i + 0x06#8
  | .iev i => chanBase i + 0x07#8
  | .ris i => chanBase i + 0x08#8
  | .mis i => chanBase i + 0x09#8
  | .icr i => chanBase i + 0x0A#8
  | .im i => chanBase i + 0x0B#8
  | .clken i => chanBase i + 0x0C#8
  | .start => 0x80#8
  | .rstreq => 0x81#8
  | .msel => 0x82#8
  | .ms => 0x83#8
  | .sec => 0x84#8
  | .min => 0x85#8
  | .seten => 0xC0#8
  | .pri n => 0xC2#8 + n.byte

/-- The `RD` row of a register; none for the write-only `ICR` (R62, 20_memory.md R68). -/
def Reg.readInstr : Reg → Option Instr
  | .data i => some (.rdData i)
  | .dir i => some (.rdDir i)
  | .afsel i => some (.rdAfsel i)
  | .den i => some (.rdDen i)
  | .pull i => some (.rdPull i)
  | .sense i => some (.rdIs i)
  | .ibe i => some (.rdIbe i)
  | .iev i => some (.rdIev i)
  | .ris i => some (.rdRis i)
  | .mis i => some (.rdMis i)
  | .icr _ => none
  | .im i => some (.rdIm i)
  | .clken i => some (.rdClken i)
  | .start => some .rdStart
  | .rstreq => some .rdRstreq
  | .msel => some .rdMsel
  | .ms => some .rdMs
  | .sec => some .rdSec
  | .min => some .rdMin
  | .seten => some .rdSeten
  | .pri n => some (.rdPri n)

/-- The `WR` row of a register; none for the read-only ones (R62, 20_memory.md R68). -/
def Reg.writeInstr (d : Byte) : Reg → Option Instr
  | .data _ => none
  | .dir i => some (.wrDir i d)
  | .afsel i => some (.wrAfsel i d)
  | .den i => some (.wrDen i d)
  | .pull i => some (.wrPull i d)
  | .sense i => some (.wrIs i d)
  | .ibe i => some (.wrIbe i d)
  | .iev i => some (.wrIev i d)
  | .ris _ => none
  | .mis _ => none
  | .icr i => some (.wrIcr i d)
  | .im i => some (.wrIm i d)
  | .clken i => some (.wrClken i d)
  | .start => some (.wrStart d)
  | .rstreq => some (.wrRstreq d)
  | .msel => none
  | .ms => none
  | .sec => none
  | .min => none
  | .seten => some (.wrSeten d)
  | .pri n => some (.wrPri n d)

/-! ## Decoding (R92) -/

/-- `RD` (K = 0). -/
def decodeRead (a d : Byte) : Decoded :=
  if d = 0#8 then
    match (Reg.ofAddr a).bind Reg.readInstr with
    | some i => .instr i
    | none => .badRead a
  else .invalid .readData

/-- `WR` (K = 1). -/
def decodeWrite (a d : Byte) : Decoded :=
  match (Reg.ofAddr a).bind (Reg.writeInstr d) with
  | some i => .instr i
  | none => .badWrite a d

/-- A kind whose `A` is a channel index (K = 2, 5, 6). -/
def decodeIndexed (a : Byte) (mk : Chan → Instr) : Decoded :=
  if a.extractLsb' 1 7 = 0#7 then .instr (mk (.ofBit (a.getLsbD 0))) else .invalid .channelIndex

/-- A kind with no field (K = 3, 4). -/
def decodePlain (a d : Byte) (i : Instr) : Decoded :=
  if a = 0#8 ∧ d = 0#8 then .instr i else .invalid .strayField

/-- The verdict on any word (R81, R92). -/
def decode (w : StimWord) : Decoded :=
  match (fieldK w).toNat with
  | 0 => decodeRead (fieldA w) (fieldD w)
  | 1 => decodeWrite (fieldA w) (fieldD w)
  | 2 => decodeIndexed (fieldA w) (fun i => .pin i (fieldD w))
  | 3 => decodePlain (fieldA w) (fieldD w) .tick
  | 4 => decodePlain (fieldA w) (fieldD w) .reset
  | 5 => decodeIndexed (fieldA w) (fun i => .setcb i (fieldD w))
  | 6 => decodeIndexed (fieldA w) (fun i => .call i (fieldD w))
  | _ => .invalid .reservedKind

/-! ## Encoding (R93) -/

/-- An `RD` word. -/
def encRead (a : Byte) : StimWord := stimWord 0#4 a 0#8

/-- A `WR` word. -/
def encWrite (a d : Byte) : StimWord := stimWord 1#4 a d

/-- The word of a stimulus, from the table of R93. -/
def encode : Instr → StimWord
  | .rdData i => encRead (chanBase i ||| 0b00000000#8)
  | .rdDir i => encRead (chanBase i ||| 0b00000001#8)
  | .wrDir i d => encWrite (chanBase i ||| 0b00000001#8) d
  | .rdAfsel i => encRead (chanBase i ||| 0b00000010#8)
  | .wrAfsel i d => encWrite (chanBase i ||| 0b00000010#8) d
  | .rdDen i => encRead (chanBase i ||| 0b00000011#8)
  | .wrDen i d => encWrite (chanBase i ||| 0b00000011#8) d
  | .rdPull i => encRead (chanBase i ||| 0b00000100#8)
  | .wrPull i d => encWrite (chanBase i ||| 0b00000100#8) d
  | .rdIs i => encRead (chanBase i ||| 0b00000101#8)
  | .wrIs i d => encWrite (chanBase i ||| 0b00000101#8) d
  | .rdIbe i => encRead (chanBase i ||| 0b00000110#8)
  | .wrIbe i d => encWrite (chanBase i ||| 0b00000110#8) d
  | .rdIev i => encRead (chanBase i ||| 0b00000111#8)
  | .wrIev i d => encWrite (chanBase i ||| 0b00000111#8) d
  | .rdRis i => encRead (chanBase i ||| 0b00001000#8)
  | .rdMis i => encRead (chanBase i ||| 0b00001001#8)
  | .wrIcr i d => encWrite (chanBase i ||| 0b00001010#8) d
  | .rdIm i => encRead (chanBase i ||| 0b00001011#8)
  | .wrIm i d => encWrite (chanBase i ||| 0b00001011#8) d
  | .rdClken i => encRead (chanBase i ||| 0b00001100#8)
  | .wrClken i d => encWrite (chanBase i ||| 0b00001100#8) d
  | .rdStart => encRead 0b10000000#8
  | .wrStart d => encWrite 0b10000000#8 d
  | .rdRstreq => encRead 0b10000001#8
  | .wrRstreq d => encWrite 0b10000001#8 d
  | .rdMsel => encRead 0b10000010#8
  | .rdMs => encRead 0b10000011#8
  | .rdSec => encRead 0b10000100#8
  | .rdMin => encRead 0b10000101#8
  | .rdSeten => encRead 0b11000000#8
  | .wrSeten d => encWrite 0b11000000#8 d
  | .rdPri n => encRead (0b11000010#8 ||| n.byte)
  | .wrPri n d => encWrite (0b11000010#8 ||| n.byte) d
  | .pin i p => stimWord 2#4 i.byte p
  | .tick => stimWord 3#4 0#8 0#8
  | .reset => stimWord 4#4 0#8 0#8
  | .setcb i c => stimWord 5#4 i.byte c
  | .call i s => stimWord 6#4 i.byte s

/-! ## The rows of spec/opcode_table.json: `match` and `mask` of each (R92, R93) -/

/-- One row: a word `w` belongs to it when `w &&& mask = pattern`. -/
structure Row where
  pattern : StimWord
  mask : StimWord
deriving DecidableEq, Repr

/-- The word belongs to the row. -/
def Row.has (r : Row) (w : StimWord) : Bool := w &&& r.mask == r.pattern

/-- The row of an instruction. -/
def Instr.row : Instr → Row
  | .rdData _ => ⟨0x00000#20, 0xFBFFF#20⟩
  | .rdDir _ => ⟨0x00100#20, 0xFBFFF#20⟩
  | .wrDir _ _ => ⟨0x10100#20, 0xFBF00#20⟩
  | .rdAfsel _ => ⟨0x00200#20, 0xFBFFF#20⟩
  | .wrAfsel _ _ => ⟨0x10200#20, 0xFBF00#20⟩
  | .rdDen _ => ⟨0x00300#20, 0xFBFFF#20⟩
  | .wrDen _ _ => ⟨0x10300#20, 0xFBF00#20⟩
  | .rdPull _ => ⟨0x00400#20, 0xFBFFF#20⟩
  | .wrPull _ _ => ⟨0x10400#20, 0xFBF00#20⟩
  | .rdIs _ => ⟨0x00500#20, 0xFBFFF#20⟩
  | .wrIs _ _ => ⟨0x10500#20, 0xFBF00#20⟩
  | .rdIbe _ => ⟨0x00600#20, 0xFBFFF#20⟩
  | .wrIbe _ _ => ⟨0x10600#20, 0xFBF00#20⟩
  | .rdIev _ => ⟨0x00700#20, 0xFBFFF#20⟩
  | .wrIev _ _ => ⟨0x10700#20, 0xFBF00#20⟩
  | .rdRis _ => ⟨0x00800#20, 0xFBFFF#20⟩
  | .rdMis _ => ⟨0x00900#20, 0xFBFFF#20⟩
  | .wrIcr _ _ => ⟨0x10A00#20, 0xFBF00#20⟩
  | .rdIm _ => ⟨0x00B00#20, 0xFBFFF#20⟩
  | .wrIm _ _ => ⟨0x10B00#20, 0xFBF00#20⟩
  | .rdClken _ => ⟨0x00C00#20, 0xFBFFF#20⟩
  | .wrClken _ _ => ⟨0x10C00#20, 0xFBF00#20⟩
  | .rdStart => ⟨0x08000#20, 0xFFFFF#20⟩
  | .wrStart _ => ⟨0x18000#20, 0xFFF00#20⟩
  | .rdRstreq => ⟨0x08100#20, 0xFFFFF#20⟩
  | .wrRstreq _ => ⟨0x18100#20, 0xFFF00#20⟩
  | .rdMsel => ⟨0x08200#20, 0xFFFFF#20⟩
  | .rdMs => ⟨0x08300#20, 0xFFFFF#20⟩
  | .rdSec => ⟨0x08400#20, 0xFFFFF#20⟩
  | .rdMin => ⟨0x08500#20, 0xFFFFF#20⟩
  | .rdSeten => ⟨0x0C000#20, 0xFFFFF#20⟩
  | .wrSeten _ => ⟨0x1C000#20, 0xFFF00#20⟩
  | .rdPri _ => ⟨0x0C200#20, 0xFFEFF#20⟩
  | .wrPri _ _ => ⟨0x1C200#20, 0xFFE00#20⟩
  | .pin _ _ => ⟨0x20000#20, 0xFFE00#20⟩
  | .tick => ⟨0x30000#20, 0xFFFFF#20⟩
  | .reset => ⟨0x40000#20, 0xFFFFF#20⟩
  | .setcb _ _ => ⟨0x50000#20, 0xFFE00#20⟩
  | .call _ _ => ⟨0x60000#20, 0xFFE00#20⟩

/-- One instruction of each row, in the table's order. -/
def Instr.samples : List Instr :=
  [.rdData .c0, .rdDir .c0, .wrDir .c0 0, .rdAfsel .c0, .wrAfsel .c0 0, .rdDen .c0, .wrDen .c0 0, .rdPull .c0,
    .wrPull .c0 0, .rdIs .c0, .wrIs .c0 0, .rdIbe .c0, .wrIbe .c0 0, .rdIev .c0, .wrIev .c0 0] ++
  [.rdRis .c0, .rdMis .c0, .wrIcr .c0 0, .rdIm .c0, .wrIm .c0 0, .rdClken .c0, .wrClken .c0 0] ++
  [.rdStart, .wrStart 0, .rdRstreq, .wrRstreq 0, .rdMsel, .rdMs, .rdSec, .rdMin] ++
  [.rdSeten, .wrSeten 0, .rdPri .c0, .wrPri .c0 0, .pin .c0 0, .tick, .reset, .setcb .c0 0, .call .c0 0]

/-- The 39 rows of the opcode table. -/
def opcodeRows : List Row := Instr.samples.map Instr.row

/-! ## The host's entry -/

/-- The instruction of a decoder's verdict, if it is one of the table's. -/
def Decoded.toInstr : Decoded → Option Instr
  | .instr i => some i
  | _ => none

/-- The instruction the decoder reads from a word numbered as the opcode table numbers it. A stimulus is one word of 20
bits and no bytes (R80), so `w` is that word; a number that does not fit in it is no stimulus. -/
def decodeTableWord (nbits w : Nat) : Option Instr :=
  if w < 2 ^ nbits ∧ w < 2 ^ 20 then (decode (BitVec.ofNat 20 w)).toInstr else none

end Sys2Proof
end

