-- ==== Sys2Proof/Machine/State.lean ====
section
/-! DEFINITION. The state of the machine: the tuple of 10_state.md R20, the agents' progress of R38 and R51, and three fields
of the model's own (`result`, `draws`, `turns`). The reasons a step stops, and the state after reset. -/

namespace Sys2Proof.Machine

/-- Read or write: part of what a BusError records (60_exceptions.md R200). -/
inductive Access where
  | read
  | write
deriving DecidableEq, Repr

/-- The four counters, as what a CounterOverflowViolation would record (R200). -/
inductive Counter where
  | msElapsed
  | milliseconds
  | seconds
  | minutes
deriving DecidableEq, Repr

/-- A recorded fault with its recorded value, 60_exceptions.md R200: what the state element `fault` holds (10_state.md
R57). -/
inductive FaultRec where
  /-- Code 1: the channel. -/
  | invalidCallback (i : Chan)
  /-- Code 2: the counter. No step raises it (R203). -/
  | counterOverflow (which : Counter)
  /-- Code 3: the address, and whether read or write. -/
  | busError (a : Byte) (dir : Access)
deriving DecidableEq, Repr

/-- The numeric codes of R200. -/
def FaultRec.code : FaultRec → Nat
  | .invalidCallback _ => 1
  | .counterOverflow _ => 2
  | .busError _ _ => 3

/-- Why the machine has no step. -/
inductive Fault where
  /-- Raised by `exec` for every stimulus but `RESET`, and by every agent's turn, in a state whose `fault` is not none: "no
  stimulus has a step except `RESET`" (60_exceptions.md R205). The step passes over such an entry (log entry 26). Safe: the
  spec gives no step there. -/
  | halted (r : FaultRec)
deriving DecidableEq, Repr

/-- Why a step is refused. -/
inductive Refusal where
  /-- Raised by an arm of `exec` that has no meaning yet. Safe: nothing follows from it. No arm raises it now. -/
  | notModelled (mnemonic : String)
  /-- Raised by the step on a word that spells no stimulus: "refused at the boundary: it is not a step, changes nothing and
  records no fault" (30_encoding.md R92). Safe: the spec refuses it too. -/
  | invalidWord (why : Invalid)
deriving DecidableEq, Repr

/-- The stored state of one `EIC[i]`, 10_state.md R20 to R33. -/
structure Channel where
  /-- The level of each pin, an input (R21). -/
  pin : Byte
  /-- The port's clock enable, CLKEN (R33). -/
  clken : Bool
  /-- Direction, DIR (R22). -/
  dir : Byte
  /-- Alternate-function select, AFSEL (R23). -/
  afsel : Byte
  /-- Digital enable, DEN (R24). -/
  den : Byte
  /-- Pull resistor, PULL (R25). -/
  pull : Byte
  /-- Edge sense, IS (R26). -/
  sense : Byte
  /-- Both edges, IBE (R27). -/
  ibe : Byte
  /-- Edge polarity, IEV (R28). -/
  iev : Byte
  /-- Interrupt mask, IM (R29). -/
  im : Byte
  /-- Raw interrupt status, RIS (R30). -/
  ris : Byte
deriving DecidableEq, Repr

/-- Where an invocation of `HANDLER i` stands, with its locals m and s (10_state.md R38). `entered` is an invocation that has
started (41_edge_channel_operation.md R146) and has not done H1 (R147, log entry 24). -/
inductive Phase where
  | idle
  | entered
  | tested (m : Byte)
  | sampled (m s : Byte)
  | called (m s : Byte)
deriving DecidableEq, Repr

/-- The state of the handler agent H[i]: the callback slot (R37) and the invocation in progress (R38). -/
structure Handler where
  cb : Option Byte
  phase : Phase
deriving DecidableEq, Repr

/-- The accumulator, R39 to R44. -/
structure Accumulator where
  msElapsed : BitVec 7
  milliseconds : BitVec 4
  seconds : BitVec 6
  minutes : BitVec 4
  start : Bool
  rstReq : Bool
deriving DecidableEq, Repr

/-- The interrupt-controller stub, R47 and R48. -/
structure IntCtl where
  en : BitVec 2
  pri : PerChan Byte
deriving DecidableEq, Repr

/-- The dispatcher's state, R49. -/
structure Dsp where
  displayCounter : Byte
  ledOut : Byte
deriving DecidableEq, Repr

/-- Where the main line stands in an `INIT i, c` (41_edge_channel_operation.md R143): the number of the next of its 21
stimuli, and the local byte t. -/
inductive MainPhase where
  | idle
  | init (i : Chan) (c : Byte) (next : Nat) (t : Byte)
deriving DecidableEq, Repr

/-- The software agents (00_scope.md R11 (4), (5)). -/
inductive Agent where
  | mainLine
  | handler (i : Chan)
deriving DecidableEq, Repr

/-- How many draws each part of the block has made (00_scope.md R15), log entry 3. -/
structure DrawCounts where
  eic : PerChan Nat
  dsp : Nat
deriving DecidableEq, Repr

/-- One entry of the schedule: a stimulus presented at the boundary, or the turn of a software agent (00_scope.md R11). -/
inductive Turn where
  /-- A stimulus word, whoever issues it. -/
  | stim (w : StimWord)
  /-- The main line begins `INIT i, c` (41_edge_channel_operation.md R143). -/
  | init (i : Chan) (c : Byte)
  /-- The main line performs the next stimulus of its `INIT`. -/
  | main
  /-- A software agent performs `READSTATUS i` (R144, 30_encoding.md R90). -/
  | readStatus (a : Agent) (i : Chan)
  /-- The handler agent H[i] starts an invocation (R146), or performs the next stimulus of the one it has started (R145). -/
  | handler (i : Chan)
deriving DecidableEq, Repr

end Sys2Proof.Machine

namespace Sys2Proof.Machine

/-- The complete state. -/
structure State where
  /-- `EIC[0]` and `EIC[1]`. -/
  eic : PerChan Channel
  /-- `H[0]` and `H[1]`. -/
  handlers : PerChan Handler
  /-- `PTA`. -/
  pta : Accumulator
  /-- `INTC`. -/
  intc : IntCtl
  /-- `DSP`. -/
  dsp : Dsp
  /-- The fault recorded, if any (10_state.md R57). -/
  fault : Option FaultRec
  /-- The main line's progress. -/
  main : MainPhase
  /-- Model's own: the byte the last step delivered to its agent, if it delivered one (00_scope.md R10), log entry 2. -/
  result : Option Byte
  /-- Model's own: how many draws have been made (R15), log entry 3. -/
  draws : DrawCounts
  /-- Model's own: the stimuli and turns still to come (70_reset_and_hazards.md R251), log entry 1. -/
  turns : List Turn
deriving DecidableEq, Repr

/-- A channel with the reset value of every register (R20) and the given pin levels. -/
def Channel.zero (p : Byte) : Channel where
  pin := p
  clken := false
  dir := 0x00#8
  afsel := 0x00#8
  den := 0x00#8
  pull := 0x00#8
  sense := 0x00#8
  ibe := 0x00#8
  iev := 0x00#8
  im := 0x00#8
  ris := 0x00#8

/-- A handler agent after reset: no callback, no invocation. -/
def Handler.zero : Handler := ⟨none, .idle⟩

/-- The accumulator after reset. -/
def Accumulator.zero : Accumulator := ⟨0, 0, 0, 0, false, false⟩

/-- The interrupt-controller stub after reset. -/
def IntCtl.zero : IntCtl := ⟨0b00#2, .both 0x00#8⟩

/-- The dispatcher's state after reset. -/
def Dsp.zero : Dsp := ⟨0x00#8, 0x00#8⟩

/-- The launch state with pin levels p0 and p1, `Launch(p0, p1)` of 70_reset_and_hazards.md R253. -/
def State.launch (p0 p1 : Byte) : State where
  eic := ⟨.zero p0, .zero p1⟩
  handlers := .both .zero
  pta := .zero
  intc := .zero
  dsp := .zero
  fault := none
  main := .idle
  result := none
  draws := ⟨.both 0, 0⟩
  turns := []

/-- The machine right after reset at power-on: every element at the reset value of R20, the pins at whatever the
environment drives (R231). -/
def State.reset : State := .launch (Config.launchPin .c0) (Config.launchPin .c1)

end Sys2Proof.Machine
end

