-- ==== Sys2Proof/Machine/Operands.lean ====
section
/-! DEFINITION. Operand forms: how a data byte reaches a narrow register and back (30_encoding.md R87), which registers may
be read or written and which are clock-gated (20_memory.md R62, R68, R69), and callback identifiers (30_encoding.md
R91). -/

namespace Sys2Proof.Machine

/-- Bit 0 of a data byte, all a one-bit register takes (R87). -/
def bit0 (d : Byte) : Bool := d.getLsbD 0

/-- Bits 1:0 of a data byte, all `SETEN` takes (R87). -/
def low2 (d : Byte) : BitVec 2 := d.extractLsb' 0 2

/-- `zext_8` of a one-bit register (00_scope.md R13). -/
def zextBit (b : Bool) : Byte := if b then 0x01#8 else 0x00#8

/-- `zext_8` of a narrower value (00_scope.md R13). -/
def zext8 {n : Nat} (v : BitVec n) : Byte := v.setWidth 8

/-- `1 << i` for a channel index (41_edge_channel_operation.md R143 line 12). -/
def lineByte : Chan → Byte
  | .c0 => 0x01#8
  | .c1 => 0x02#8

/-- Bit i of a two-bit value. -/
def chanBit (v : BitVec 2) : Chan → Bool
  | .c0 => v.getLsbD 0
  | .c1 => v.getLsbD 1

/-- The callback slot's content for an identifier: 0x00 is `none` (30_encoding.md R91, 41_edge_channel_operation.md
R141). -/
def slotOf (c : Byte) : Option Byte := if c = 0x00#8 then none else some c

/-- The register allows `RD`: all but `ICR` (20_memory.md R62, R68). -/
def readable : Reg → Bool
  | .icr _ => false
  | _ => true

/-- The register allows `WR`: all but the read-only ones (20_memory.md R62, R68). -/
def writable : Reg → Bool
  | .data _ => false
  | .ris _ => false
  | .mis _ => false
  | .msel => false
  | .ms => false
  | .sec => false
  | .min => false
  | _ => true

/-- The channel whose clock gates the register: every register of a channel but `CLKEN` (20_memory.md R69). -/
def gateOf : Reg → Option Chan
  | .data i => some i
  | .dir i => some i
  | .afsel i => some i
  | .den i => some i
  | .pull i => some i
  | .sense i => some i
  | .ibe i => some i
  | .iev i => some i
  | .ris i => some i
  | .mis i => some i
  | .icr i => some i
  | .im i => some i
  | .clken _ => none
  | .start => none
  | .rstreq => none
  | .msel => none
  | .ms => none
  | .sec => none
  | .min => none
  | .seten => none
  | .pri _ => none

end Sys2Proof.Machine
end

