-- ==== Sys2Proof/Machine/Flags.lean ====
section
/-! DEFINITION. Every flag computation: the predicates on a pin (10_state.md R35), the pending flags (R30, R35 and the rules
that write them), the masked status and the request and line of a channel (R31, R36, 44_intc_stub.md R199). A predicate on
pins is written as the byte of the pins for which it holds. -/

namespace Sys2Proof.Machine

/-- A byte that takes its bits from `new` where `m` is 1 and from `old` elsewhere. -/
def pick (m new old : Byte) : Byte := (new &&& m) ||| (old &&& ~~~m)

/-- The pins for which `dig_in(i, b)` holds (R35). -/
def digIn (c : Channel) : Byte := if c.clken then ~~~c.dir &&& ~~~c.afsel &&& c.den else 0x00#8

/-- The pins for which `rise_cfg(i, b)` holds (R35). -/
def riseCfg (c : Channel) : Byte := ~~~c.sense &&& ~~~c.ibe &&& c.iev

/-- The pins for which `armed(i, b)` holds (R35). -/
def armed (c : Channel) : Byte := digIn c &&& riseCfg c

/-- The pins that go from 0 to 1 (41_edge_channel_operation.md R140). -/
def rising (old new : Byte) : Byte := ~~~old &&& new

/-- `RIS` after `PIN` with levels p: an armed pin's flag is set by a rising edge and otherwise kept, the flag of any other
pin is a draw (R140). -/
def risAfterPin (c : Channel) (p drawn : Byte) : Byte := pick (armed c) (c.ris ||| rising c.pin p) drawn

/-- `RIS` after a configuration write that changes the bits of `chg`: their flags are draws (R35 (b)). -/
def risAfterConfig (ris chg drawn : Byte) : Byte := pick chg drawn ris

/-- `RIS` after a write of d to `ICR` (40_edge_channel_registers.md R117). -/
def risAfterAck (ris d : Byte) : Byte := ris &&& ~~~d

/-- `DATA`: the level of each digital-in pin, a draw for any other (R34). -/
def dataView (c : Channel) (drawn : Byte) : Byte := pick (digIn c) c.pin drawn

/-- `MIS` (R31). -/
def mis (c : Channel) : Byte := c.ris &&& c.im

/-- `irq[i]` (R36). -/
def irq (c : Channel) : Bool := mis c != 0x00#8

/-- `line[i]` (44_intc_stub.md R199). -/
def line (s : State) (i : Chan) : Bool := irq (s.eic.get i) && chanBit s.intc.en i

end Sys2Proof.Machine
end

