-- ==== Sys2Proof/Machine/Ops.lean ====
section
/-! DEFINITION. The named operations over the state: updates of one part, draws, register reads and writes
(20_memory.md R61, R68, R69), raising a fault (60_exceptions.md R205), and the way out of it, the reset (70_reset_and_hazards.md
R230). -/

namespace Sys2Proof.Machine

/-! ## Updates of one part -/

/-- One channel changed. -/
def State.updEic (s : State) (i : Chan) (f : Channel → Channel) : State := { s with eic := s.eic.set i (f (s.eic.get i)) }

/-- One handler agent's record changed. -/
def State.updHandler (s : State) (i : Chan) (f : Handler → Handler) : State :=
  { s with handlers := s.handlers.set i (f (s.handlers.get i)) }

/-- The accumulator changed. -/
def State.updPta (s : State) (f : Accumulator → Accumulator) : State := { s with pta := f s.pta }

/-- The interrupt controller changed. -/
def State.updIntc (s : State) (f : IntCtl → IntCtl) : State := { s with intc := f s.intc }

/-- The dispatcher's state changed. -/
def State.updDsp (s : State) (f : Dsp → Dsp) : State := { s with dsp := f s.dsp }

/-- The byte delivered to the agent, or none. -/
def State.setResult (s : State) (r : Option Byte) : State := { s with result := r }

/-- The main line moved. -/
def State.setMain (s : State) (m : MainPhase) : State := { s with main := m }

/-- A handler's invocation moved. -/
def State.setPhase (s : State) (i : Chan) (p : Phase) : State := s.updHandler i (fun h => { h with phase := p })

/-- A callback slot written (41_edge_channel_operation.md R141). -/
def State.setSlot (s : State) (i : Chan) (c : Option Byte) : State := s.updHandler i (fun h => { h with cb := c })

/-! ## Draws (00_scope.md R15) -/

/-- How many draws a part of the block has made. -/
def DrawCounts.count (n : DrawCounts) : DrawSite → Nat
  | .eic i => n.eic.get i
  | .dsp => n.dsp

/-- One more draw made by a part of the block. -/
def DrawCounts.bump (n : DrawCounts) : DrawSite → DrawCounts
  | .eic i => { n with eic := n.eic.set i (n.eic.get i + 1) }
  | .dsp => { n with dsp := n.dsp + 1 }

/-- The byte the next draw of a part of the block gives. -/
def State.drawn (s : State) (w : DrawSite) : Byte := Config.draw w (s.draws.count w)

/-- The draw made. -/
def State.afterDraw (s : State) (w : DrawSite) : State := { s with draws := s.draws.bump w }

/-! ## Faults: entry and the way out -/

/-- A fault is raised: `fault` takes it, the rest of the state is as before the step (60_exceptions.md R205), and no byte is
delivered. -/
def State.raise (s : State) (f : FaultRec) : State := { s with fault := some f, result := none }

/-- `RESET` (70_reset_and_hazards.md R230): every element to its reset value but the pins, every software agent to its
start, the fault gone. The draws made and the turns to come are no state of the block and stay (log entry 20). -/
def State.resetAll (s : State) : State where
  eic := ⟨.zero s.eic.c0.pin, .zero s.eic.c1.pin⟩
  handlers := .both .zero
  pta := .zero
  intc := .zero
  dsp := .zero
  fault := none
  main := .idle
  result := none
  draws := s.draws
  turns := s.turns

/-- What an action leaves: its own state, or the state before with the fault raised. -/
def State.settle (s : State) (r : Except FaultRec State) : State :=
  match r with
  | .ok s' => s'
  | .error f => s.raise f

/-- One stimulus: it has no step in a faulted state (60_exceptions.md R205), and elsewhere its action is taken as one atomic
step (20_memory.md R65). Unless the action delivers a byte, none is delivered. -/
def stimulus (s : State) (act : State → Except FaultRec State) : Host.Outcome State Fault Refusal :=
  match s.fault with
  | none => .next (s.settle (act (s.setResult none)))
  | some f => .fault (.halted f)

/-! ## Register reads (the `RD` rules) -/

/-- What a readable register returns, and the state (changed only in the draws made, for `DATA`). The value of `ICR`, which
is not readable, is of no account: `regRead` faults first. -/
def readReg (r : Reg) (s : State) : Byte × State :=
  match r with
  | .data i => (dataView (s.eic.get i) (s.drawn (.eic i)), s.afterDraw (.eic i))
  | .dir i => ((s.eic.get i).dir, s)
  | .afsel i => ((s.eic.get i).afsel, s)
  | .den i => ((s.eic.get i).den, s)
  | .pull i => ((s.eic.get i).pull, s)
  | .sense i => ((s.eic.get i).sense, s)
  | .ibe i => ((s.eic.get i).ibe, s)
  | .iev i => ((s.eic.get i).iev, s)
  | .ris i => ((s.eic.get i).ris, s)
  | .mis i => (mis (s.eic.get i), s)
  | .icr _ => (0x00#8, s)
  | .im i => ((s.eic.get i).im, s)
  | .clken i => (zextBit (s.eic.get i).clken, s)
  | .start => (zextBit s.pta.start, s)
  | .rstreq => (zextBit s.pta.rstReq, s)
  | .msel => (zext8 s.pta.msElapsed, s)
  | .ms => (zext8 s.pta.milliseconds, s)
  | .sec => (zext8 s.pta.seconds, s)
  | .min => (zext8 s.pta.minutes, s)
  | .seten => (zext8 s.intc.en, s)
  | .pri n => (s.intc.pri.get n, s)

/-! ## Register writes (the `WR` rules) -/

/-- A write of a configuration register (`old` its content, `put` its store): the flag of every pin whose bit changes is a
draw (10_state.md R35 (b)). -/
def configWrite (i : Chan) (old : Channel → Byte) (put : Channel → Channel) (d : Byte) (s : State) : State :=
  (s.updEic i (fun c => { put c with ris := risAfterConfig c.ris (old c ^^^ d) (s.drawn (.eic i)) })).afterDraw (.eic i)

/-- What a write of d to a writable register does. A register that is not writable is left alone: `regWrite` faults
first. -/
def writeReg (r : Reg) (d : Byte) (s : State) : State :=
  match r with
  | .data _ => s
  | .dir i => configWrite i (·.dir) (fun c => { c with dir := d }) d s
  | .afsel i => configWrite i (·.afsel) (fun c => { c with afsel := d }) d s
  | .den i => configWrite i (·.den) (fun c => { c with den := d }) d s
  | .pull i => s.updEic i (fun c => { c with pull := d })
  | .sense i => configWrite i (·.sense) (fun c => { c with sense := d }) d s
  | .ibe i => configWrite i (·.ibe) (fun c => { c with ibe := d }) d s
  | .iev i => configWrite i (·.iev) (fun c => { c with iev := d }) d s
  | .ris _ => s
  | .mis _ => s
  | .icr i => s.updEic i (fun c => { c with ris := risAfterAck c.ris d })
  | .im i => s.updEic i (fun c => { c with im := d })
  | .clken i => s.updEic i (fun c => { c with clken := bit0 d })
  | .start => s.updPta (fun p => { p with start := bit0 d })
  | .rstreq => s.updPta (fun p => { p with rstReq := bit0 d })
  | .msel => s
  | .ms => s
  | .sec => s
  | .min => s
  | .seten => s.updIntc (fun c => { c with en := c.en ||| low2 d })
  | .pri n => s.updIntc (fun c => { c with pri := c.pri.set n d })

/-! ## The access checks (20_memory.md R61) -/

/-- The register is behind a port clock that is off (20_memory.md R69). -/
def gatedOff (r : Reg) (s : State) : Bool :=
  match gateOf r with
  | some i => !(s.eic.get i).clken
  | none => false

/-- `RD` of a register: BusError if it may not be read or is gated (R68, R69). -/
def regRead (r : Reg) (s : State) : Except FaultRec (Byte × State) :=
  if readable r && !gatedOff r s then .ok (readReg r s) else .error (.busError r.addr .read)

/-- `WR` of a register: BusError if it may not be written or is gated (R68, R69). -/
def regWrite (r : Reg) (d : Byte) (s : State) : Except FaultRec State :=
  if writable r && !gatedOff r s then .ok (writeReg r d s) else .error (.busError r.addr .write)

/-- `MemRead(a, 1)` (R61). -/
def memRead (a : Byte) (s : State) : Except FaultRec (Byte × State) :=
  match Reg.ofAddr a with
  | some r => regRead r s
  | none => .error (.busError a .read)

/-- `MemWrite(a, 1, d)` (R61). -/
def memWrite (a d : Byte) (s : State) : Except FaultRec State :=
  match Reg.ofAddr a with
  | some r => regWrite r d s
  | none => .error (.busError a .write)

/-- The byte read becomes the result of the step (00_scope.md R10). -/
def deliver (r : Byte × State) : State := r.2.setResult (some r.1)

/-- The stimulus `RD` of a register. -/
def rdStep (r : Reg) (s : State) : Host.Outcome State Fault Refusal :=
  stimulus s (fun s => (regRead r s).map deliver)

/-- The stimulus `WR` of a register. -/
def wrStep (r : Reg) (d : Byte) (s : State) : Host.Outcome State Fault Refusal :=
  stimulus s (regWrite r d)

end Sys2Proof.Machine
end

