-- ==== Sys2Proof/Machine/Accumulator.lean ====
section
/-! DEFINITION. The periodic tick accumulator: its eight register accesses and `TICK` (42_tick_accumulator.md R170 to
R178). -/

namespace Sys2Proof.Machine

/-- The four counters as unbounded integers, in the order `e`, `d`, `s`, `m` of R178. -/
structure Counts where
  e : Nat
  d : Nat
  s : Nat
  m : Nat
deriving DecidableEq, Repr

/-- "if e > 99 then e <- 0; d <- d + 1". -/
def rollE (c : Counts) : Counts := if c.e > 99 then { c with e := 0, d := c.d + 1 } else c

/-- "if d > 9 then d <- 0; s <- s + 1". -/
def rollD (c : Counts) : Counts := if c.d > 9 then { c with d := 0, s := c.s + 1 } else c

/-- "if s > 59 then s <- 0; m <- m + 1". -/
def rollS (c : Counts) : Counts := if c.s > 59 then { c with s := 0, m := c.m + 1 } else c

/-- "if m > 9 then m <- 0". -/
def rollM (c : Counts) : Counts := if c.m > 9 then { c with m := 0 } else c

/-- Step 1 of R178 when the run flag is set: one increment and four tests, one after the other. -/
def accumulate (c : Counts) : Counts := rollM (rollS (rollD (rollE { c with e := c.e + 1 })))

/-- The stored counters, read as integers. -/
def Accumulator.counts (p : Accumulator) : Counts :=
  ⟨p.msElapsed.toNat, p.milliseconds.toNat, p.seconds.toNat, p.minutes.toNat⟩

/-- The counters stored. -/
def Accumulator.store (p : Accumulator) (c : Counts) : Accumulator :=
  { p with msElapsed := BitVec.ofNat 7 c.e, milliseconds := BitVec.ofNat 4 c.d,
           seconds := BitVec.ofNat 6 c.s, minutes := BitVec.ofNat 4 c.m }

/-- Step 1 of R178, gated by the run flag. -/
def tickRun (p : Accumulator) : Accumulator := if p.start then p.store (accumulate p.counts) else p

/-- Step 2 of R178: a reset request is served whether or not step 1 ran. -/
def tickServe (p : Accumulator) : Accumulator := if p.rstReq then .zero else p

/-- One tick: accumulate, then possibly reset (R178, R182). -/
def tickPta (p : Accumulator) : Accumulator := tickServe (tickRun p)

/-- `RD.START` (R170). -/
def execRdStart (s : State) : Host.Outcome State Fault Refusal := rdStep .start s

/-- `WR.START` (R171). -/
def execWrStart (d : Byte) (s : State) : Host.Outcome State Fault Refusal := wrStep .start d s

/-- `RD.RSTREQ` (R172). -/
def execRdRstreq (s : State) : Host.Outcome State Fault Refusal := rdStep .rstreq s

/-- `WR.RSTREQ` (R173). -/
def execWrRstreq (d : Byte) (s : State) : Host.Outcome State Fault Refusal := wrStep .rstreq d s

/-- `RD.MSEL` (R174). -/
def execRdMsel (s : State) : Host.Outcome State Fault Refusal := rdStep .msel s

/-- `RD.MS` (R175). -/
def execRdMs (s : State) : Host.Outcome State Fault Refusal := rdStep .ms s

/-- `RD.SEC` (R176). -/
def execRdSec (s : State) : Host.Outcome State Fault Refusal := rdStep .sec s

/-- `RD.MIN` (R177). -/
def execRdMin (s : State) : Host.Outcome State Fault Refusal := rdStep .min s

/-- `TICK` (R178). -/
def execTick (s : State) : Host.Outcome State Fault Refusal := stimulus s (fun s => .ok (s.updPta tickPta))

end Sys2Proof.Machine
end

