-- ==== Sys2Proof/Machine/Dispatcher.lean ====
section
/-! DEFINITION. The bodies of the callbacks: `DISPATCH2` and `DISPATCH4` (43_dispatcher.md R190, R191) and the
caller-supplied ones (R193), whose bodies are a parameter of the model. -/

namespace Sys2Proof.Machine

/-- One effect of a caller-supplied callback (R193): an update of `DSP` state, or a `WR` or `RD` stimulus. The display
counter is "an 8-bit value (0–15)" in every reachable state (10_state.md R49), log entry 13. That a callback other than
`DISPATCH2` and `DISPATCH4` may write the two fields of `DSP` follows R193, and the writer clause of R194 gives way to it
(DESIGN CHOICE, log entry 27). -/
inductive Effect where
  | setDisplay (v : BitVec 4)
  | setLed (v : Byte)
  | rd (a : Byte)
  | wr (a d : Byte)
deriving DecidableEq, Repr

/-- What of the state a callback may depend on: all of the block and its agents, and nothing of the model's own fields. -/
def State.blockView (s : State) : State := { s with result := none, draws := ⟨.both 0, 0⟩, turns := [] }

end Sys2Proof.Machine

namespace Sys2Proof

/-- The bodies of callbacks 3..255: "a total function from the status byte and the current state to a finite list of
effects" (R193), for each identifier, log entry 12. -/
opaque Config.callbackBody : Byte → Byte → Machine.State → List Machine.Effect

end Sys2Proof

namespace Sys2Proof.Machine

/-- `c + 1` with wraparound at 15 to 0 (R190). -/
def incDisplay (c : Byte) : Byte := if c = 15#8 then 0#8 else c + 1#8

/-- `c - 1` with wraparound at 0 to 15 (R190). -/
def decDisplay (c : Byte) : Byte := if c = 0#8 then 15#8 else c - 1#8

/-- The display counter counted by `f`. "for a stored value above 15, which no run reaches, the document gives no rule"
(R190): there the result is a draw, log entry 14. -/
def countDisplay (f : Byte → Byte) (s : State) : State :=
  if s.dsp.displayCounter.toNat ≤ 15 then
    s.updDsp (fun d => { d with displayCounter := f d.displayCounter })
  else
    (s.updDsp (fun d => { d with displayCounter := s.drawn .dsp })).afterDraw .dsp

/-- `DISPATCH2(st)` (R190), matching by exact equality (R192). -/
def dispatch2 (p : Params) (st : Byte) (s : State) : State :=
  if st = p.codeInc then countDisplay incDisplay s
  else if st = p.codeDec then countDisplay decDisplay s
  else s

/-- `DISPATCH4(st)` (R191), matching by exact equality (R192). -/
def dispatch4 (p : Params) (st : Byte) (s : State) : State :=
  if st = p.codeToggle then s.updDsp (fun d => { d with ledOut := d.ledOut ^^^ oneHot p.ledBit }) else s

/-- One effect performed (R193). The byte an `RD` effect reads stays with the callback. An update of `DSP` takes effect although
R194 names `DISPATCH2` and `DISPATCH4` as the only writers (DESIGN CHOICE, log entry 27). -/
def runEffect (e : Effect) (s : State) : Except FaultRec State :=
  match e with
  | .setDisplay v => .ok (s.updDsp (fun d => { d with displayCounter := v.setWidth 8 }))
  | .setLed v => .ok (s.updDsp (fun d => { d with ledOut := v }))
  | .rd a => (memRead a s).map (·.2)
  | .wr a d => memWrite a d s

/-- Effects performed in order, up to the first fault (R193). -/
def runEffects : List Effect → State → Except FaultRec State
  | [], s => .ok s
  | e :: es, s =>
    match runEffect e s with
    | .ok s' => runEffects es s'
    | .error f => .error f

/-- The body of callback c run with status byte st by the handler of channel i (41_edge_channel_operation.md R142). 0x00
names the null callback (30_encoding.md R91). -/
def callbackRun (p : Params) (i : Chan) (c st : Byte) (s : State) : Except FaultRec State :=
  match c.toNat with
  | 0 => .error (.invalidCallback i)
  | 1 => .ok (dispatch2 p st s)
  | 2 => .ok (dispatch4 p st s)
  | _ => runEffects (Config.callbackBody c st s.blockView) s

/-- The callback registered on channel i invoked (R142): InvalidCallback where the slot is none. -/
def callSlot (p : Params) (i : Chan) (st : Byte) (s : State) : Except FaultRec State :=
  match (s.handlers.get i).cb with
  | none => .error (.invalidCallback i)
  | some c => callbackRun p i c st s

end Sys2Proof.Machine
end

