-- ==== Sys2Proof/Machine/EdgeChannel.lean ====
section
/-! DEFINITION. The edge-interrupt input channel: its 22 register accesses (40_edge_channel_registers.md R100 to R121), the
pin event, and the callback stimuli (41_edge_channel_operation.md R140 to R142). -/

namespace Sys2Proof.Machine

/-- `RD.DATA` (R100). -/
def execRdData (i : Chan) (s : State) : Host.Outcome State Fault Refusal := rdStep (.data i) s

/-- `RD.DIR` (R101). -/
def execRdDir (i : Chan) (s : State) : Host.Outcome State Fault Refusal := rdStep (.dir i) s

/-- `WR.DIR` (R102). -/
def execWrDir (i : Chan) (d : Byte) (s : State) : Host.Outcome State Fault Refusal := wrStep (.dir i) d s

/-- `RD.AFSEL` (R103). -/
def execRdAfsel (i : Chan) (s : State) : Host.Outcome State Fault Refusal := rdStep (.afsel i) s

/-- `WR.AFSEL` (R104). -/
def execWrAfsel (i : Chan) (d : Byte) (s : State) : Host.Outcome State Fault Refusal := wrStep (.afsel i) d s

/-- `RD.DEN` (R105). -/
def execRdDen (i : Chan) (s : State) : Host.Outcome State Fault Refusal := rdStep (.den i) s

/-- `WR.DEN` (R106). -/
def execWrDen (i : Chan) (d : Byte) (s : State) : Host.Outcome State Fault Refusal := wrStep (.den i) d s

/-- `RD.PULL` (R107). -/
def execRdPull (i : Chan) (s : State) : Host.Outcome State Fault Refusal := rdStep (.pull i) s

/-- `WR.PULL` (R108). -/
def execWrPull (i : Chan) (d : Byte) (s : State) : Host.Outcome State Fault Refusal := wrStep (.pull i) d s

/-- `RD.IS` (R109). -/
def execRdIs (i : Chan) (s : State) : Host.Outcome State Fault Refusal := rdStep (.sense i) s

/-- `WR.IS` (R110). -/
def execWrIs (i : Chan) (d : Byte) (s : State) : Host.Outcome State Fault Refusal := wrStep (.sense i) d s

/-- `RD.IBE` (R111). -/
def execRdIbe (i : Chan) (s : State) : Host.Outcome State Fault Refusal := rdStep (.ibe i) s

/-- `WR.IBE` (R112). -/
def execWrIbe (i : Chan) (d : Byte) (s : State) : Host.Outcome State Fault Refusal := wrStep (.ibe i) d s

/-- `RD.IEV` (R113). -/
def execRdIev (i : Chan) (s : State) : Host.Outcome State Fault Refusal := rdStep (.iev i) s

/-- `WR.IEV` (R114). -/
def execWrIev (i : Chan) (d : Byte) (s : State) : Host.Outcome State Fault Refusal := wrStep (.iev i) d s

/-- `RD.RIS` (R115). -/
def execRdRis (i : Chan) (s : State) : Host.Outcome State Fault Refusal := rdStep (.ris i) s

/-- `RD.MIS` (R116). -/
def execRdMis (i : Chan) (s : State) : Host.Outcome State Fault Refusal := rdStep (.mis i) s

/-- `WR.ICR` (R117), write one to clear. -/
def execWrIcr (i : Chan) (d : Byte) (s : State) : Host.Outcome State Fault Refusal := wrStep (.icr i) d s

/-- `RD.IM` (R118). -/
def execRdIm (i : Chan) (s : State) : Host.Outcome State Fault Refusal := rdStep (.im i) s

/-- `WR.IM` (R119). -/
def execWrIm (i : Chan) (d : Byte) (s : State) : Host.Outcome State Fault Refusal := wrStep (.im i) d s

/-- `RD.CLKEN` (R120), never gated. -/
def execRdClken (i : Chan) (s : State) : Host.Outcome State Fault Refusal := rdStep (.clken i) s

/-- `WR.CLKEN` (R121), never gated. -/
def execWrClken (i : Chan) (d : Byte) (s : State) : Host.Outcome State Fault Refusal := wrStep (.clken i) d s

/-- The pins of channel i take the levels p (R140). -/
def pinEvent (i : Chan) (p : Byte) (s : State) : State :=
  (s.updEic i (fun c => { c with ris := risAfterPin c p (s.drawn (.eic i)), pin := p })).afterDraw (.eic i)

/-- `PIN i, p` (R140). -/
def execPin (i : Chan) (p : Byte) (s : State) : Host.Outcome State Fault Refusal :=
  stimulus s (fun s => .ok (pinEvent i p s))

/-- The callback registered, unless the hardened variant turns a null callback away (R141). -/
def registerCallback (p : Params) (i : Chan) (c : Byte) (s : State) : Except FaultRec State :=
  if p.hardenedInit && c == 0x00#8 then .error (.invalidCallback i) else .ok (s.setSlot i (slotOf c))

/-- `SETCB i, c` (R141). -/
def execSetcb (i : Chan) (c : Byte) (s : State) : Host.Outcome State Fault Refusal :=
  stimulus s (registerCallback Config.params i c)

/-- `CALL i, st` (R142). -/
def execCall (i : Chan) (st : Byte) (s : State) : Host.Outcome State Fault Refusal :=
  stimulus s (callSlot Config.params i st)

end Sys2Proof.Machine
end

