-- ==== Sys2Proof/Machine/IntController.lean ====
section
/-! DEFINITION. The interrupt-controller stub: its four register accesses (44_intc_stub.md R195 to R198). -/

namespace Sys2Proof.Machine

/-- `RD.SETEN` (R195). -/
def execRdSeten (s : State) : Host.Outcome State Fault Refusal := rdStep .seten s

/-- `WR.SETEN` (R196), write one to set. -/
def execWrSeten (d : Byte) (s : State) : Host.Outcome State Fault Refusal := wrStep .seten d s

/-- `RD.PRI` (R197). -/
def execRdPri (n : Chan) (s : State) : Host.Outcome State Fault Refusal := rdStep (.pri n) s

/-- `WR.PRI` (R198). -/
def execWrPri (n : Chan) (d : Byte) (s : State) : Host.Outcome State Fault Refusal := wrStep (.pri n) d s

end Sys2Proof.Machine
end

