-- ==== Sys2Proof/Machine/System.lean ====
section
/-! DEFINITION. The reset stimulus (70_reset_and_hazards.md R230). -/

namespace Sys2Proof.Machine

/-- `RESET` (R230): "the one stimulus that has a step in a faulted state". -/
def execReset (s : State) : Host.Outcome State Fault Refusal := .next s.resetAll

end Sys2Proof.Machine
end

