-- ==== Sys2Proof/Machine/Dispatch.lean ====
section
/-! DEFINITION. One arm for each stimulus of the opcode table (30_encoding.md R93). -/

namespace Sys2Proof.Machine

def exec (i : Instr) (s : State) : Host.Outcome State Fault Refusal :=
  match i with
  | .rdData ch => Sys2Proof.Machine.execRdData ch s
  | .rdDir ch => Sys2Proof.Machine.execRdDir ch s
  | .wrDir ch d => Sys2Proof.Machine.execWrDir ch d s
  | .rdAfsel ch => Sys2Proof.Machine.execRdAfsel ch s
  | .wrAfsel ch d => Sys2Proof.Machine.execWrAfsel ch d s
  | .rdDen ch => Sys2Proof.Machine.execRdDen ch s
  | .wrDen ch d => Sys2Proof.Machine.execWrDen ch d s
  | .rdPull ch => Sys2Proof.Machine.execRdPull ch s
  | .wrPull ch d => Sys2Proof.Machine.execWrPull ch d s
  | .rdIs ch => Sys2Proof.Machine.execRdIs ch s
  | .wrIs ch d => Sys2Proof.Machine.execWrIs ch d s
  | .rdIbe ch => Sys2Proof.Machine.execRdIbe ch s
  | .wrIbe ch d => Sys2Proof.Machine.execWrIbe ch d s
  | .rdIev ch => Sys2Proof.Machine.execRdIev ch s
  | .wrIev ch d => Sys2Proof.Machine.execWrIev ch d s
  | .rdRis ch => Sys2Proof.Machine.execRdRis ch s
  | .rdMis ch => Sys2Proof.Machine.execRdMis ch s
  | .wrIcr ch d => Sys2Proof.Machine.execWrIcr ch d s
  | .rdIm ch => Sys2Proof.Machine.execRdIm ch s
  | .wrIm ch d => Sys2Proof.Machine.execWrIm ch d s
  | .rdClken ch => Sys2Proof.Machine.execRdClken ch s
  | .wrClken ch d => Sys2Proof.Machine.execWrClken ch d s
  | .rdStart => Sys2Proof.Machine.execRdStart s
  | .wrStart d => Sys2Proof.Machine.execWrStart d s
  | .rdRstreq => Sys2Proof.Machine.execRdRstreq s
  | .wrRstreq d => Sys2Proof.Machine.execWrRstreq d s
  | .rdMsel => Sys2Proof.Machine.execRdMsel s
  | .rdMs => Sys2Proof.Machine.execRdMs s
  | .rdSec => Sys2Proof.Machine.execRdSec s
  | .rdMin => Sys2Proof.Machine.execRdMin s
  | .rdSeten => Sys2Proof.Machine.execRdSeten s
  | .wrSeten d => Sys2Proof.Machine.execWrSeten d s
  | .rdPri n => Sys2Proof.Machine.execRdPri n s
  | .wrPri n d => Sys2Proof.Machine.execWrPri n d s
  | .pin ch p => Sys2Proof.Machine.execPin ch p s
  | .tick => Sys2Proof.Machine.execTick s
  | .reset => Sys2Proof.Machine.execReset s
  | .setcb ch c => Sys2Proof.Machine.execSetcb ch c s
  | .call ch st => Sys2Proof.Machine.execCall ch st s

end Sys2Proof.Machine
end

