-- ==== Sys2Proof/Machine/Agents.lean ====
section
/-! DEFINITION. The software agents of 00_scope.md R11 and what one turn of the schedule does: a stimulus presented at the
boundary, the main line's `INIT` (41_edge_channel_operation.md R143), any agent's `READSTATUS` (R144) and the handler agents'
`HANDLER` (R145 to R147; 60_exceptions.md R214). -/

namespace Sys2Proof.Machine

/-- The byte the last stimulus delivered. -/
def State.received (s : State) : Byte := s.result.getD 0x00#8

/-- An agent issues a stimulus, and moves on by `after` unless the stimulus faulted: a fault leaves everything else as before
the step (60_exceptions.md R205). -/
def issue (i : Instr) (after : State → State) (s : State) : Host.Outcome State Fault Refusal :=
  match exec i s with
  | .next s' => .next (if s'.fault = none then after s' else s')
  | .fault f => .fault f
  | .refused r => .refused r

/-- A turn in which the agent may take no step: it passes and nothing happens (log entry 8). No agent has a step in a faulted
state (60_exceptions.md R205). -/
def passTurn (s : State) : Host.Outcome State Fault Refusal :=
  match s.fault with
  | none => .next s
  | some f => .fault (.halted f)

/-- An agent's turn: it issues its stimulus where it may take a step. -/
def agentTurn (may : Bool) (i : Instr) (after : State → State) (s : State) : Host.Outcome State Fault Refusal :=
  if may then issue i after s else passTurn s

/-! ## The handler agents -/

/-- An invocation at this position is in progress, "between H1 and H4" (70_reset_and_hazards.md R251; 10_state.md R38, log entry
24). -/
def Phase.between : Phase → Bool
  | .idle => false
  | .entered => false
  | .tested _ => true
  | .sampled _ _ => true
  | .called _ _ => true

/-- An invocation of `HANDLER i` is in progress. -/
def inProgress (i : Chan) (s : State) : Bool := (s.handlers.get i).phase.between

/-- Nothing bars H[i]: the other handler is not between two of its steps, or `preempts` allows it (60_exceptions.md R214, log
entries 10 and 11). -/
def handlerFree (p : Params) (i : Chan) (s : State) : Bool := !inProgress i.other s || p.preempts.get i

/-- The stimulus of each position of `HANDLER i` that has started: H1 to H4 of R145. -/
def handlerInstr (p : Params) (i : Chan) : Phase → Option Instr
  | .idle => none
  | .entered => some (.rdMis i)
  | .tested _ => some (.rdData (p.samplePort i))
  | .sampled _ st => some (.call i st)
  | .called _ _ => some (.wrIcr i (p.ackMask i))

/-- The position after it, given the byte received: the invocation ends after H1 when no monitored pin is pending (R147), and
after H4. -/
def handlerNext (p : Params) (i : Chan) (got : Byte) : Phase → Phase
  | .idle => .idle
  | .entered => if got &&& p.mask.get i = 0x00#8 then .idle else .tested (got &&& p.mask.get i)
  | .tested m => .sampled m (got &&& p.statusMask i)
  | .sampled m st => .called m st
  | .called _ _ => .idle

/-- H[i] starts an invocation where its line is 1 and nothing bars it (R146). Entry is no stimulus and changes nothing else; H1 is
a step of its own, before which the request may be withdrawn (R147). -/
def handlerStart (p : Params) (i : Chan) (s : State) : Host.Outcome State Fault Refusal :=
  passTurn (if line s i && handlerFree p i s then s.setPhase i .entered else s)

/-- One turn of H[i]: it starts, or performs the next stimulus of the invocation it has started. -/
def handlerTurn (p : Params) (i : Chan) (s : State) : Host.Outcome State Fault Refusal :=
  match handlerInstr p i (s.handlers.get i).phase with
  | none => handlerStart p i s
  | some k =>
    agentTurn (handlerFree p i s) k
      (fun s' => s'.setPhase i (handlerNext p i s'.received (s.handlers.get i).phase)) s

/-! ## The main line -/

/-- "The main line never steps while a handler invocation is in progress" (60_exceptions.md R214). -/
def mainMay (s : State) : Bool := !inProgress .c0 s && !inProgress .c1 s

/-- The 21 stimuli of `INIT i, c` by number (R143), t being the byte the read before it returned. -/
def initInstr (p : Params) (i : Chan) (c t : Byte) : Nat → Option Instr
  | 0 => some (.setcb i c)
  | 1 => some (.wrClken i 0x01#8)
  | 2 => some (.rdDir i)
  | 3 => some (.wrDir i (t &&& ~~~p.mask.get i))
  | 4 => some (.rdAfsel i)
  | 5 => some (.wrAfsel i (t &&& ~~~p.mask.get i))
  | 6 => some (.rdDen i)
  | 7 => some (.wrDen i (t ||| p.mask.get i))
  | 8 => some (.rdPull i)
  | 9 => some (.wrPull i (t ||| p.mask.get i))
  | 10 => some (.rdIs i)
  | 11 => some (.wrIs i (t &&& ~~~p.mask.get i))
  | 12 => some (.rdIbe i)
  | 13 => some (.wrIbe i (t &&& ~~~p.mask.get i))
  | 14 => some (.rdIev i)
  | 15 => some (.wrIev i (t ||| p.mask.get i))
  | 16 => some (.wrIcr i (p.mask.get i))
  | 17 => some (.rdIm i)
  | 18 => some (.wrIm i (t ||| p.mask.get i))
  | 19 => some (.wrPri i (p.prio.get i))
  | 20 => some (.wrSeten (lineByte i))
  | _ => none

/-- The main line after the stimulus number n of `INIT i, c`: done after number 20. A byte received becomes t. -/
def initNext (i : Chan) (c : Byte) (n : Nat) (t : Byte) (s : State) : State :=
  s.setMain (if n < 20 then .init i c (n + 1) (s.result.getD t) else .idle)

/-- The main line begins `INIT i, c`, if it is not in one. -/
def beginInit (i : Chan) (c : Byte) (s : State) : Host.Outcome State Fault Refusal :=
  agentTurn (mainMay s && s.main == .idle) (.setcb i c) (initNext i c 0 0x00#8) s

/-- The main line performs the next stimulus of its `INIT`, if it is in one. -/
def mainTurn (p : Params) (s : State) : Host.Outcome State Fault Refusal :=
  match s.main with
  | .idle => passTurn s
  | .init i c n t =>
    match initInstr p i c t n with
    | some k => agentTurn (mainMay s) k (initNext i c n t) s
    | none => passTurn s

/-! ## Any software agent -/

/-- An agent may issue `READSTATUS`: the main line where it may step and is in no `INIT`, a handler agent while an invocation of
its own has started and nothing bars it (30_encoding.md R90, log entry 21). -/
def readStatusMay (p : Params) (a : Agent) (s : State) : Bool :=
  match a with
  | .mainLine => mainMay s && s.main == .idle
  | .handler j => (s.handlers.get j).phase != .idle && handlerFree p j s

/-- An agent performs `READSTATUS i`: the read of `DATA`, whose byte the agent masks (R144). -/
def readStatusTurn (p : Params) (a : Agent) (i : Chan) (s : State) : Host.Outcome State Fault Refusal :=
  agentTurn (readStatusMay p a s) (.rdData i)
    (fun s' => s'.setResult (some (s'.received &&& p.mask.get i))) s

/-! ## One turn -/

/-- A stimulus word presented at the boundary (30_encoding.md R86, R92). -/
def presentWord (w : StimWord) (s : State) : Host.Outcome State Fault Refusal :=
  match decode w with
  | .instr i => exec i s
  | .badRead a => stimulus s (fun s => (memRead a s).map deliver)
  | .badWrite a d => stimulus s (memWrite a d)
  | .invalid why => .refused (.invalidWord why)

/-- What one entry of the schedule does. -/
def takeTurn (p : Params) (t : Turn) (s : State) : Host.Outcome State Fault Refusal :=
  match t with
  | .stim w => presentWord w s
  | .init i c => beginInit i c s
  | .main => mainTurn p s
  | .readStatus a i => readStatusTurn p a i s
  | .handler i => handlerTurn p i s

/-- An entry that has no step in a faulted state (60_exceptions.md R205) is passed over: the trace goes on, so that "a later
`RESET` clears it" (70_reset_and_hazards.md R251, program P6 of 95_test_vectors.md T25; log entry 26). -/
def passOver (s : State) (o : Host.Outcome State Fault Refusal) : Host.Outcome State Fault Refusal :=
  match o with
  | .next t => .next t
  | .fault (.halted _) => .next s
  | .refused r => .refused r

/-- One step: the first entry of the schedule is taken off it and done. With none left nothing happens (log entry 7). -/
def stepState (s : State) : Host.Outcome State Fault Refusal :=
  match s.turns with
  | [] => .next s
  | t :: rest => passOver { s with turns := rest } (takeTurn Config.params t { s with turns := rest })

/-- The state with a stimulus word as the next entry of the schedule. -/
def State.present (s : State) (w : StimWord) : State := { s with turns := .stim w :: s.turns }

end Sys2Proof.Machine
end

