-- ==== Sys2Proof/Machine/Step.lean ====
section
/-! DEFINITION. The step of the machine, and the host's way to present one word. -/

namespace Sys2Proof.Machine

/-- One step (00_scope.md R10). -/
def step (s : State) : Host.Outcome State Fault Refusal := stepState s

/-- The state whose next step runs the stimulus with the bits of w (log entry 1). A stimulus is one word of 20 bits whatever
nbits is. -/
def State.withFetchWord (s : State) (_nbits w : Nat) : State := s.present (BitVec.ofNat 20 w)

end Sys2Proof.Machine
end

