-- ==== Sys2Proof/Safety.lean ====
section
/-! DEFINITION. What claims are stated in: safe states, the launch premises of 70_reset_and_hazards.md R253, the invariants of
10_state.md R45 and R49 and of the agents, and the shapes of effect that several instructions share. -/

namespace Sys2Proof.Safety

open Sys2Proof.Machine

/-- Bit b of a byte. -/
abbrev bit (v : Byte) (b : Nat) : Bool := v.getLsbD b

/-- The machine is not faulted: every well-formed stimulus has a step (00_scope.md R12). -/
def healthy (s : State) : Prop := s.fault = none

/-! ## Predicates on one pin, as 10_state.md R35 writes them -/

/-- `dig_in(i, b)`. -/
def digInAt (c : Channel) (b : Nat) : Prop :=
  c.clken = true ∧ bit c.dir b = false ∧ bit c.afsel b = false ∧ bit c.den b = true

/-- `rise_cfg(i, b)`. -/
def riseCfgAt (c : Channel) (b : Nat) : Prop := bit c.sense b = false ∧ bit c.ibe b = false ∧ bit c.iev b = true

/-- `armed(i, b)`. -/
def armedAt (c : Channel) (b : Nat) : Prop := digInAt c b ∧ riseCfgAt c b

/-! ## Launch premises (70_reset_and_hazards.md R253) -/

/-- `ZeroTime`: the four counters 0 and both stopwatch flags 0. -/
def ZeroTime (s : State) : Prop := s.pta = ⟨0, 0, 0, 0, false, false⟩

/-- No `INIT` or `HANDLER` invocation in progress (R230 names both), and no handler started either: that an `entered` handler, which
has not done H1, keeps the machine from being quiescent is the model's choice (DESIGN CHOICE, log entry 25). -/
def NoneInProgress (s : State) : Prop := s.main = .idle ∧ ∀ i, (s.handlers.get i).phase = .idle

/-- `Quiescent`: no invocation in progress and both lines 0. -/
def Quiescent (s : State) : Prop := NoneInProgress s ∧ ∀ i, line s i = false

/-- A monitored pin as `INIT` leaves it (41_edge_channel_operation.md R143). -/
def MonitoredPinReady (c : Channel) (b : Nat) : Prop :=
  bit c.dir b = false ∧ bit c.afsel b = false ∧ bit c.den b = true ∧ bit c.pull b = true ∧ bit c.sense b = false ∧
    bit c.ibe b = false ∧ bit c.iev b = true ∧ bit c.im b = true ∧ bit c.ris b = false

/-- `Initialized(i, c)`: the post-state of `INIT i, c` (R143). -/
def Initialized (p : Params) (i : Chan) (c : Byte) (s : State) : Prop :=
  (s.handlers.get i).cb = (if c = 0#8 then none else some c) ∧ (s.eic.get i).clken = true ∧
    (∀ b, b < 8 → bit (p.mask.get i) b = true → MonitoredPinReady (s.eic.get i) b) ∧
    s.intc.pri.get i = p.prio.get i ∧ chanBit s.intc.en i = true

/-- `Ready`: the reference system after start-up. -/
def Ready (p : Params) (s : State) : Prop := Initialized p .c0 0x01#8 s ∧ Initialized p .c1 0x02#8 s

/-! ## Agents -/

/-- Nothing bars H[i]: the other handler is not between two of its steps, or may be preempted (60_exceptions.md R214). -/
def Unbarred (i : Chan) (s : State) : Prop := inProgress i.other s = false ∨ Config.params.preempts.get i = true

/-- The agent may issue `READSTATUS` (30_encoding.md R90, log entry 21): the main line in no `INIT` and with no handler in
progress, a handler agent that has started and is not barred. -/
def MayReadStatus (s : State) : Agent → Prop
  | .mainLine => s.main = .idle ∧ ∀ j, inProgress j s = false
  | .handler j => (s.handlers.get j).phase ≠ .idle ∧ Unbarred j s

/-! ## Faulted states -/

/-- The entry is neither the `RESET` word nor an invalid word: it has no step in a faulted state (60_exceptions.md R205). -/
def HasNoStepWhenFaulted (u : Turn) : Prop :=
  u ≠ .stim (encode .reset) ∧ ∀ w why, u = .stim w → decode w ≠ .invalid why

/-! ## Invariants -/

/-- The counters are in range (10_state.md R45). -/
def CountersInRange (p : Accumulator) : Prop :=
  p.msElapsed.toNat ≤ 99 ∧ p.milliseconds.toNat ≤ 9 ∧ p.seconds.toNat ≤ 59 ∧ p.minutes.toNat ≤ 9

/-- The count the counters encode, 42_tick_accumulator.md R179. -/
def timeOf (p : Accumulator) : Nat :=
  p.msElapsed.toNat + 100 * p.milliseconds.toNat + 1000 * p.seconds.toNat + 60000 * p.minutes.toNat

/-- What holds of the block in every reachable state: the counters' range (R45), the display counter's (R49), no slot holding
the null identifier (R37), and no counter overflow ever recorded (60_exceptions.md R203). -/
def BlockInv (s : State) : Prop :=
  CountersInRange s.pta ∧ s.dsp.displayCounter.toNat ≤ 15 ∧ (∀ i, (s.handlers.get i).cb ≠ some 0#8) ∧
    ∀ w, s.fault ≠ some (.counterOverflow w)

/-- The locals of a handler invocation are masked values (41_edge_channel_operation.md R145), and an invocation past its test
has found a monitored pin pending (R147). -/
def PhaseOk (p : Params) (i : Chan) : Phase → Prop
  | .idle => True
  | .entered => True
  | .tested m => m ≠ 0#8 ∧ m &&& ~~~p.mask.get i = 0#8
  | .sampled m st => m ≠ 0#8 ∧ m &&& ~~~p.mask.get i = 0#8 ∧ st &&& ~~~p.statusMask i = 0#8
  | .called m st => m ≠ 0#8 ∧ m &&& ~~~p.mask.get i = 0#8 ∧ st &&& ~~~p.statusMask i = 0#8

/-- The main line stands between two of the 21 stimuli of an `INIT`, or in none (R143). -/
def MainOk : MainPhase → Prop
  | .idle => True
  | .init _ _ n _ => 1 ≤ n ∧ n ≤ 20

/-- What holds of the agents in every reachable state: their positions and locals, and that both handlers are in progress only
where one may preempt the other (60_exceptions.md R214). -/
def AgentInv (p : Params) (s : State) : Prop :=
  (∀ i, PhaseOk p i (s.handlers.get i).phase) ∧ MainOk s.main ∧
    ((∀ i, inProgress i s = true) → ∃ i, p.preempts.get i = true)

/-! ## Shapes of effect -/

/-- `k i` is a gated read at offset `off` of channel i: with the port clock on it delivers `val` and changes nothing, with the
clock off it raises BusError (20_memory.md R61, R66, R69). -/
def ReadsAs (k : Chan → Instr) (off : Byte) (val : Channel → Byte) : Prop :=
  ∀ i s, healthy s →
    ((s.eic.get i).clken = true → exec (k i) s = .next { s with result := some (val (s.eic.get i)) }) ∧
    ((s.eic.get i).clken = false →
      exec (k i) s = .next { s with fault := some (.busError (chanBase i + off) .read), result := none })

/-- `k i d` is a gated write at offset `off` of channel i whose whole effect is `put`: with the port clock off it raises
BusError. -/
def WritesAs (k : Chan → Byte → Instr) (off : Byte) (put : Channel → Byte → Channel) : Prop :=
  ∀ i d s, healthy s →
    ((s.eic.get i).clken = true →
      exec (k i d) s = .next { s with eic := s.eic.set i (put (s.eic.get i) d), result := none }) ∧
    ((s.eic.get i).clken = false →
      exec (k i d) s = .next { s with fault := some (.busError (chanBase i + off) .write), result := none })

/-- `k i d` is a gated write of a configuration register: it stores d, and the flag of each pin whose bit changes is a draw,
every other flag kept (10_state.md R35 (b)). -/
def ConfigWritesAs (k : Chan → Byte → Instr) (off : Byte) (get : Channel → Byte) (put : Channel → Byte → Channel) : Prop :=
  ∀ i d s, healthy s →
    ((s.eic.get i).clken = true →
      ∃ r : Byte,
        exec (k i d) s = .next { s with
          eic := s.eic.set i { put (s.eic.get i) d with ris := r }, result := none, draws := s.draws.bump (.eic i) } ∧
        ∀ b, b < 8 → bit r b =
          if bit d b = bit (get (s.eic.get i)) b then bit (s.eic.get i).ris b else bit (s.drawn (.eic i)) b) ∧
    ((s.eic.get i).clken = false →
      exec (k i d) s = .next { s with fault := some (.busError (chanBase i + off) .write), result := none })

/-- The stimulus is a register read. -/
def isRead : Instr → Bool
  | .rdData _ => true
  | .rdDir _ => true
  | .rdAfsel _ => true
  | .rdDen _ => true
  | .rdPull _ => true
  | .rdIs _ => true
  | .rdIbe _ => true
  | .rdIev _ => true
  | .rdRis _ => true
  | .rdMis _ => true
  | .rdIm _ => true
  | .rdClken _ => true
  | .rdStart => true
  | .rdRstreq => true
  | .rdMsel => true
  | .rdMs => true
  | .rdSec => true
  | .rdMin => true
  | .rdSeten => true
  | .rdPri _ => true
  | _ => false

/-- The channel whose registers, pins or slot a stimulus names. -/
def channelOf : Instr → Option Chan
  | .rdData i => some i
  | .rdDir i => some i
  | .wrDir i _ => some i
  | .rdAfsel i => some i
  | .wrAfsel i _ => some i
  | .rdDen i => some i
  | .wrDen i _ => some i
  | .rdPull i => some i
  | .wrPull i _ => some i
  | .rdIs i => some i
  | .wrIs i _ => some i
  | .rdIbe i => some i
  | .wrIbe i _ => some i
  | .rdIev i => some i
  | .wrIev i _ => some i
  | .rdRis i => some i
  | .rdMis i => some i
  | .wrIcr i _ => some i
  | .rdIm i => some i
  | .wrIm i _ => some i
  | .rdClken i => some i
  | .wrClken i _ => some i
  | .pin i _ => some i
  | .setcb i _ => some i
  | .call i _ => some i
  | _ => none

/-- The stimulus may lower or redraw the flag of pin b of channel i in channel state c, whether it is armed or not: an
acknowledge that names it, or a configuration write that changes its bit (10_state.md R30, R35). -/
def mayTouchFlag (i : Chan) (b : Nat) (c : Channel) : Instr → Prop
  | .wrIcr j d => j = i ∧ bit d b = true
  | .wrDir j d => j = i ∧ bit d b ≠ bit c.dir b
  | .wrAfsel j d => j = i ∧ bit d b ≠ bit c.afsel b
  | .wrDen j d => j = i ∧ bit d b ≠ bit c.den b
  | .wrIs j d => j = i ∧ bit d b ≠ bit c.sense b
  | .wrIbe j d => j = i ∧ bit d b ≠ bit c.ibe b
  | .wrIev j d => j = i ∧ bit d b ≠ bit c.iev b
  | _ => False

/-- n `TICK`s one after the other. -/
def tickTimes : Nat → State → Host.Outcome State Fault Refusal
  | 0, s => .next s
  | n + 1, s =>
    match exec .tick s with
    | .next s' => tickTimes n s'
    | .fault f => .fault f
    | .refused r => .refused r

end Sys2Proof.Safety
end

