-- ==== Sys2Proof/Certificates/Slice0/Obligations.lean ====
section
/-! DEFINITION. The statements for the provers. Each docstring names the rule of spec/ it formalises. `healthy s` says that no
fault is recorded; `Config.draw` is the free value of every `draw`, and no statement depends on what it is. -/

open Sys2Proof Sys2Proof.Machine Sys2Proof.Safety

/-! ## Encoding (30_encoding.md) -/

/-- Words written out from the table of 30_encoding.md R93 and the vectors of 95_test_vectors.md T13 to T17 decode to the
stimuli they stand for. -/
def Obligations.SampleWordsDecode : Prop :=
  decode 0b00000100100100000000#20 = .instr (.rdMis .c1) ∧
  decode 0b00010000001100000011#20 = .instr (.wrDen .c0 0x03#8) ∧
  decode 0b00010100101000001111#20 = .instr (.wrIcr .c1 0x0F#8) ∧
  decode 0b00001000001000000000#20 = .instr .rdMsel ∧
  decode 0b00011000000011111110#20 = .instr (.wrStart 0xFE#8) ∧
  decode 0b00011100001110101011#20 = .instr (.wrPri .c1 0xAB#8) ∧
  decode 0b00100000000111111111#20 = .instr (.pin .c1 0xFF#8) ∧
  decode 0b00110000000000000000#20 = .instr .tick ∧
  decode 0b01000000000000000000#20 = .instr .reset ∧
  decode 0b01010000000100000010#20 = .instr (.setcb .c1 0x02#8) ∧
  decode 0b01100000000010000000#20 = .instr (.call .c0 0x80#8) ∧
  decode 0x00D00#20 = .badRead 0x0D#8 ∧ decode 0x18305#20 = .badWrite 0x83#8 0x05#8 ∧
  decode 0x00901#20 = .invalid .readData ∧ decode 0x20201#20 = .invalid .channelIndex

/-- Decode and encode agree for every stimulus at every operand (R92, R93). -/
def Obligations.DecodeOfEncodeIsTheInstruction : Prop := ∀ i : Instr, decode (encode i) = .instr i

/-- Each stimulus has one word only: a word that decodes to it is its encoding (R92). -/
def Obligations.EachInstructionHasOneWord : Prop := ∀ (w : StimWord) (i : Instr), decode w = .instr i → encode i = w

/-- The `invalid` words are those of a reserved kind and those with a must-be-zero field not zero (R84, R85). -/
def Obligations.InvalidWordsAreReservedOrStray : Prop :=
  ∀ w : StimWord, (∃ why, decode w = .invalid why) ↔
    (7 ≤ (fieldK w).toNat ∨
      (fieldK w = 0#4 ∧ fieldD w ≠ 0#8) ∨
      ((fieldK w = 3#4 ∨ fieldK w = 4#4) ∧ (fieldA w ≠ 0#8 ∨ fieldD w ≠ 0#8)) ∨
      ((fieldK w = 2#4 ∨ fieldK w = 5#4 ∨ fieldK w = 6#4) ∧ 2 ≤ (fieldA w).toNat))

/-- A decoder written from the opcode table alone reads the same: a word that matches a row decodes to an instruction of that
row, a word that decodes to an instruction matches that instruction's row and no other, and every well-formed word that matches
no row is an illegal access (R92). -/
def Obligations.DecoderReadsTheOpcodeTable : Prop :=
  (∀ (w : StimWord) (r : Row), r ∈ opcodeRows → r.has w = true → ∃ i, decode w = .instr i ∧ i.row = r) ∧
  (∀ (w : StimWord) (i : Instr), decode w = .instr i →
    i.row.has w = true ∧ i.row ∈ opcodeRows ∧ ∀ r ∈ opcodeRows, r.has w = true → r = i.row) ∧
  (∀ w : StimWord, wordOk w = true → (∀ r ∈ opcodeRows, r.has w = false) →
    (fieldK w = 0#4 ∧ decode w = .badRead (fieldA w)) ∨ (fieldK w = 1#4 ∧ decode w = .badWrite (fieldA w) (fieldD w)))

/-! ## The step -/

/-- A step runs the decoded instruction: the first entry of the schedule is taken off it and `exec` is applied. Where a fault is
recorded and the instruction is not `RESET`, it has no step and the entry is passed over (R205; log entry 26). -/
def Obligations.StepRunsTheDecodedInstruction : Prop :=
  ∀ (s : State) (w : StimWord) (rest : List Turn) (i : Instr), s.turns = .stim w :: rest → decode w = .instr i →
    (healthy s ∨ i = .reset → step s = exec i { s with turns := rest }) ∧
    (¬ healthy s → i ≠ .reset → step s = .next { s with turns := rest })

/-- 00_scope.md R12: "every well-formed stimulus has a step in every non-faulted state". -/
def Obligations.EveryStimulusHasAStep : Prop :=
  (∀ (k : Instr) (s : State), healthy s → ∃ t, exec k s = .next t) ∧
  (∀ (s : State) (w : StimWord) (rest : List Turn), healthy s → s.turns = .stim w :: rest →
    (∀ why, decode w ≠ .invalid why) → ∃ t, step s = .next t)

/-- "An `invalid` word is refused at the boundary" (R92). -/
def Obligations.InvalidWordIsRefused : Prop :=
  ∀ (s : State) (w : StimWord) (rest : List Turn) (why : Invalid),
    s.turns = .stim w :: rest → decode w = .invalid why → step s = .refused (.invalidWord why)

/-- 20_memory.md R68: `RD` or `WR` at an unassigned address, `RD` at the write-only register, `WR` at a read-only one raise
BusError and change no state other than `fault` (no byte is delivered, and the stimulus is taken off the schedule). -/
def Obligations.IllegalAccessRaisesBusError : Prop :=
  ∀ (s : State) (a d : Byte) (rest : List Turn), healthy s →
    (s.turns = .stim (stimWord 0#4 a 0#8) :: rest →
      ((a.toNat < 0x80 ∧ 0x0C < a.toNat % 0x40) ∨ (0x85 < a.toNat ∧ a.toNat < 0xC0) ∨ a = 0xC1#8 ∨ 0xC3 < a.toNat ∨
        (a.toNat < 0x80 ∧ a.toNat % 0x40 = 0x0A)) →
      step s = .next { s with turns := rest, fault := some (.busError a .read), result := none }) ∧
    (s.turns = .stim (stimWord 1#4 a d) :: rest →
      ((a.toNat < 0x80 ∧ 0x0C < a.toNat % 0x40) ∨ (0x85 < a.toNat ∧ a.toNat < 0xC0) ∨ a = 0xC1#8 ∨ 0xC3 < a.toNat ∨
        (a.toNat < 0x80 ∧ (a.toNat % 0x40 = 0x00 ∨ a.toNat % 0x40 = 0x08 ∨ a.toNat % 0x40 = 0x09)) ∨
        (0x82 ≤ a.toNat ∧ a.toNat ≤ 0x85)) →
      step s = .next { s with turns := rest, fault := some (.busError a .write), result := none })

/-- 20_memory.md R69: with the port clock off, every access at offsets 0x00 to 0x0B of the channel raises BusError, the accesses
to CLKEN itself do not, and no permitted access to the accumulator or the interrupt controller faults, whatever the clocks. -/
def Obligations.GatedAccessRaisesBusError : Prop :=
  (∀ (s : State) (i : Chan) (n : Nat) (d : Byte) (rest : List Turn), healthy s → (s.eic.get i).clken = false → n < 0x0C →
    (s.turns = .stim (stimWord 0#4 (chanBase i + BitVec.ofNat 8 n) 0#8) :: rest →
      step s = .next { s with
        turns := rest, fault := some (.busError (chanBase i + BitVec.ofNat 8 n) .read), result := none }) ∧
    (s.turns = .stim (stimWord 1#4 (chanBase i + BitVec.ofNat 8 n) d) :: rest →
      step s = .next { s with
        turns := rest, fault := some (.busError (chanBase i + BitVec.ofNat 8 n) .write), result := none }) ∧
    (s.turns = .stim (stimWord 0#4 (chanBase i + 0x0C#8) 0#8) :: rest →
      step s = .next { s with turns := rest, result := some 0x00#8 }) ∧
    (s.turns = .stim (stimWord 1#4 (chanBase i + 0x0C#8) d) :: rest →
      step s = .next { s with
        turns := rest, eic := s.eic.set i { s.eic.get i with clken := bit d 0 }, result := none })) ∧
  (∀ (s : State) (a d : Byte) (rest : List Turn), healthy s →
    (s.turns = .stim (stimWord 0#4 a 0#8) :: rest →
      ((0x80 ≤ a.toNat ∧ a.toNat ≤ 0x85) ∨ a = 0xC0#8 ∨ a = 0xC2#8 ∨ a = 0xC3#8) →
      ∃ t, step s = .next t ∧ healthy t) ∧
    (s.turns = .stim (stimWord 1#4 a d) :: rest →
      (a = 0x80#8 ∨ a = 0x81#8 ∨ a = 0xC0#8 ∨ a = 0xC2#8 ∨ a = 0xC3#8) →
      ∃ t, step s = .next t ∧ healthy t))

/-! ## Faults and reset -/

/-- 60_exceptions.md R205: a step that raises a fault leaves the rest of the state as before it, and from then on only `RESET`
has a step, which clears it. -/
def Obligations.FaultIsTerminalButForReset : Prop :=
  (∀ (k : Instr) (s t : State), healthy s → exec k s = .next t → ¬ healthy t →
    { t with fault := none, result := s.result } = s) ∧
  (∀ (k : Instr) (s : State) (f : FaultRec), s.fault = some f → k ≠ .reset → exec k s = .fault (.halted f)) ∧
  (∀ s : State, ∃ t, exec .reset s = .next t ∧ healthy t)

/-- No entry of the schedule but a `RESET` word moves a faulted machine (R205): an entry that has no step is passed over and changes
nothing else, which is the model's form of its having none (log entry 26), and `RESET` has its effect. -/
def Obligations.FaultedMachineWaitsForReset : Prop :=
  ∀ s : State, ¬ healthy s →
    (s.turns = [] → step s = .next s) ∧
    (∀ u rest, s.turns = u :: rest → HasNoStepWhenFaulted u → step s = .next { s with turns := rest }) ∧
    (∀ rest, s.turns = .stim (encode .reset) :: rest →
      ∃ t, step s = .next t ∧ exec .reset { s with turns := rest } = .next t ∧ healthy t)

/-- 70_reset_and_hazards.md R251: a faulted run goes on to a later `RESET`, which clears the fault, whatever entries without a step
stand between (program P6 of 95_test_vectors.md T25; log entry 26). None of them has any effect: the state after it is that of
`RESET` at the faulted state, the pins as they were at the fault. -/
def Obligations.FaultedRunGoesOnToReset : Prop :=
  ∀ (s : State) (us rest : List Turn), ¬ healthy s → s.turns = us ++ .stim (encode .reset) :: rest →
    (∀ u ∈ us, HasNoStepWhenFaulted u) →
    ∃ t, Host.Core.run core (us.length + 1) s = .next t ∧ exec .reset { s with turns := rest } = .next t ∧ healthy t ∧
      t.turns = rest ∧ ∀ i, (t.eic.get i).pin = (s.eic.get i).pin

/-- 70_reset_and_hazards.md R231: at launch every element but the pins has the value of the reset column of 10_state.md R20.
That the model's own fields start as they do is its choice (log entries 1 to 3) and is not stated. -/
def Obligations.LaunchStateHasTheResetColumn : Prop :=
  (∀ i, State.reset.eic.get i =
    { pin := (State.reset.eic.get i).pin, clken := false, dir := 0x00#8, afsel := 0x00#8, den := 0x00#8, pull := 0x00#8,
      sense := 0x00#8, ibe := 0x00#8, iev := 0x00#8, im := 0x00#8, ris := 0x00#8 }) ∧
  (∀ i, State.reset.handlers.get i = ⟨none, .idle⟩) ∧
  State.reset.pta = ⟨0, 0, 0, 0, false, false⟩ ∧
  State.reset.intc.en = 0b00#2 ∧ (∀ i, State.reset.intc.pri.get i = 0x00#8) ∧
  State.reset.dsp = ⟨0x00#8, 0x00#8⟩ ∧ State.reset.fault = none ∧ State.reset.main = .idle

/-- 70_reset_and_hazards.md R230: `RESET` has a step in every state, faulted ones too, returns every element to its reset value
and every agent to its start, and keeps the pins. -/
def Obligations.ResetReturnsEveryElement : Prop :=
  ∀ s : State, ∃ t, exec .reset s = .next t ∧
    (∀ i, t.eic.get i =
      { pin := (s.eic.get i).pin, clken := false, dir := 0x00#8, afsel := 0x00#8, den := 0x00#8, pull := 0x00#8,
        sense := 0x00#8, ibe := 0x00#8, iev := 0x00#8, im := 0x00#8, ris := 0x00#8 }) ∧
    (∀ i, t.handlers.get i = ⟨none, .idle⟩) ∧ t.pta = ⟨0, 0, 0, 0, false, false⟩ ∧
    t.intc.en = 0b00#2 ∧ (∀ i, t.intc.pri.get i = 0x00#8) ∧ t.dsp = ⟨0x00#8, 0x00#8⟩ ∧ t.fault = none ∧ t.main = .idle

/-- `RESET` leaves the model's own counts of draws and the turns to come as they were. R230 says nothing of them: this is the
model's choice (DESIGN CHOICE, log entry 20). -/
def Obligations.ResetKeepsDrawsAndTurns : Prop :=
  ∀ s : State, ∃ t, exec .reset s = .next t ∧ t.draws = s.draws ∧ t.turns = s.turns ∧ t.result = none

/-! ## Channel registers (40_edge_channel_registers.md) -/

/-- R101, R103, R105, R107, R109, R111, R113, R115, R116, R118: each read delivers its register (MIS: `RIS & IM`) and changes
nothing; with the port clock off it raises BusError. -/
def Obligations.ChannelReadsDeliverTheRegister : Prop :=
  ReadsAs .rdDir 0x01#8 (·.dir) ∧ ReadsAs .rdAfsel 0x02#8 (·.afsel) ∧ ReadsAs .rdDen 0x03#8 (·.den) ∧
  ReadsAs .rdPull 0x04#8 (·.pull) ∧ ReadsAs .rdIs 0x05#8 (·.sense) ∧ ReadsAs .rdIbe 0x06#8 (·.ibe) ∧
  ReadsAs .rdIev 0x07#8 (·.iev) ∧ ReadsAs .rdRis 0x08#8 (·.ris) ∧ ReadsAs .rdMis 0x09#8 (fun c => c.ris &&& c.im) ∧
  ReadsAs .rdIm 0x0B#8 (·.im)

/-- R100: `RD.DATA` delivers the level of each digital-in pin, a drawn bit for any other, and changes no state of the block;
with the port clock off it raises BusError. -/
def Obligations.DataReadShowsLivePinLevels : Prop :=
  ∀ (i : Chan) (s : State), healthy s →
    ((s.eic.get i).clken = true → ∃ r : Byte,
      exec (.rdData i) s = .next { s with result := some r, draws := s.draws.bump (.eic i) } ∧
      ∀ b, b < 8 →
        (digInAt (s.eic.get i) b → bit r b = bit (s.eic.get i).pin b) ∧
        (¬ digInAt (s.eic.get i) b → bit r b = bit (Config.draw (.eic i) (s.draws.eic.get i)) b)) ∧
    ((s.eic.get i).clken = false →
      exec (.rdData i) s = .next { s with fault := some (.busError (chanBase i) .read), result := none })

/-- R120, R121: `CLKEN` reads as bit 0 zero-extended, takes bit 0 of the byte written, and neither access can fail; nothing
else of the channel changes. -/
def Obligations.ClockEnableIsNeverGated : Prop :=
  ∀ (i : Chan) (d : Byte) (s : State), healthy s →
    exec (.rdClken i) s = .next { s with result := some (if (s.eic.get i).clken then 0x01#8 else 0x00#8) } ∧
    exec (.wrClken i d) s =
      .next { s with eic := s.eic.set i { s.eic.get i with clken := bit d 0 }, result := none }

/-- R102, R104, R106, R110, R112, R114: a configuration write stores its byte and makes the flag of each pin whose bit changes a
draw, every other flag and everything else as before; with the port clock off it raises BusError. -/
def Obligations.ConfigurationWritesDrawChangedFlags : Prop :=
  ConfigWritesAs .wrDir 0x01#8 (·.dir) (fun c d => { c with dir := d }) ∧
  ConfigWritesAs .wrAfsel 0x02#8 (·.afsel) (fun c d => { c with afsel := d }) ∧
  ConfigWritesAs .wrDen 0x03#8 (·.den) (fun c d => { c with den := d }) ∧
  ConfigWritesAs .wrIs 0x05#8 (·.sense) (fun c d => { c with sense := d }) ∧
  ConfigWritesAs .wrIbe 0x06#8 (·.ibe) (fun c d => { c with ibe := d }) ∧
  ConfigWritesAs .wrIev 0x07#8 (·.iev) (fun c d => { c with iev := d })

/-- R108, R119: a write of `PULL` or `IM` stores its byte and does nothing else, `RIS` included. -/
def Obligations.PullAndMaskWritesOnlyStore : Prop :=
  WritesAs .wrPull 0x04#8 (fun c d => { c with pull := d }) ∧ WritesAs .wrIm 0x0B#8 (fun c d => { c with im := d })

/-- R117: a write to `ICR` clears exactly the flags the byte names and stores nothing. -/
def Obligations.AcknowledgeClearsTheNamedFlags : Prop :=
  ∀ (i : Chan) (d : Byte) (s : State), healthy s →
    ((s.eic.get i).clken = true → ∃ r : Byte,
      exec (.wrIcr i d) s = .next { s with eic := s.eic.set i { s.eic.get i with ris := r }, result := none } ∧
      ∀ b, b < 8 → bit r b = (bit (s.eic.get i).ris b && !bit d b)) ∧
    ((s.eic.get i).clken = false →
      exec (.wrIcr i d) s = .next { s with fault := some (.busError (chanBase i + 0x0A#8) .write), result := none })

/-- 20_memory.md R66: a read that does not fault changes no state but the byte delivered and the count of the draws made. -/
def Obligations.ReadsHaveNoSideEffect : Prop :=
  ∀ (k : Instr) (s t : State), isRead k = true → exec k s = .next t → healthy t →
    { t with result := s.result, draws := s.draws } = s ∧ ∃ b, t.result = some b

/-! ## Pin events and pending flags (41_edge_channel_operation.md) -/

/-- R140: `PIN` stores the levels, sets the flag of every armed pin that rises and keeps that of every other armed pin, and makes
the flag of each pin not armed a draw. It needs no clock and changes nothing else. -/
def Obligations.PinEventSetsRisingFlags : Prop :=
  ∀ (i : Chan) (p : Byte) (s : State), healthy s → ∃ r : Byte,
    exec (.pin i p) s = .next { s with
      eic := s.eic.set i { s.eic.get i with pin := p, ris := r }, result := none, draws := s.draws.bump (.eic i) } ∧
    ∀ b, b < 8 →
      (armedAt (s.eic.get i) b →
        bit r b = (bit (s.eic.get i).ris b || (!bit (s.eic.get i).pin b && bit p b))) ∧
      (¬ armedAt (s.eic.get i) b → bit r b = bit (Config.draw (.eic i) (s.draws.eic.get i)) b)

/-- 10_state.md R30: the pending flag of an armed pin stays set under every stimulus but `RESET`, an acknowledge that names it, a
configuration write that changes its bit (R35), and the `CALL` of a caller-supplied callback, which may do either (R193). -/
def Obligations.PendingFlagStaysUntilAcknowledged : Prop :=
  ∀ (k : Instr) (s t : State) (i : Chan) (b : Nat), b < 8 → exec k s = .next t → armedAt (s.eic.get i) b →
    bit (s.eic.get i).ris b = true → k ≠ .reset →
    (∀ j st c, k = .call j st → (s.handlers.get j).cb = some c → c.toNat < 3) → ¬ mayTouchFlag i b (s.eic.get i) k →
    bit (t.eic.get i).ris b = true

/-- 10_state.md R21: only the environment changes the pins, through `PIN`; reset does not. -/
def Obligations.PinLevelsChangeOnlyByPin : Prop :=
  ∀ (k : Instr) (s t : State) (i : Chan), exec k s = .next t → (∀ p, k ≠ .pin i p) → (t.eic.get i).pin = (s.eic.get i).pin

/-- The two channels "do not share any mutable state" (R149): a stimulus on one channel that is no `CALL` leaves the registers,
pins and handler of the other as they were. -/
def Obligations.ChannelsShareNoState : Prop :=
  ∀ (k : Instr) (s t : State) (i : Chan), channelOf k = some i → (∀ st, k ≠ .call i st) → exec k s = .next t →
    t.eic.get i.other = s.eic.get i.other ∧ t.handlers.get i.other = s.handlers.get i.other ∧ t.pta = s.pta ∧
      t.intc = s.intc ∧ t.dsp = s.dsp ∧ t.main = s.main

/-- 10_state.md R31, R36 and 44_intc_stub.md R199: the line of a channel is 1 exactly when some pin is pending and unmasked and
the line is enabled. -/
def Obligations.LineIsPendingUnmaskedAndEnabled : Prop :=
  ∀ (s : State) (i : Chan), line s i = true ↔
    ((∃ b, b < 8 ∧ bit (s.eic.get i).ris b = true ∧ bit (s.eic.get i).im b = true) ∧
      s.intc.en.getLsbD (match i with | .c0 => 0 | .c1 => 1) = true)

/-! ## Callbacks and the dispatcher (41, 43) -/

/-- R141: `SETCB` fills the slot (0x00 empties it) and does nothing else; under `HARDENED_INIT` a null callback is turned away
with InvalidCallback. -/
def Obligations.SetcbFillsTheSlot : Prop :=
  ∀ (i : Chan) (c : Byte) (s : State), healthy s →
    (c ≠ 0#8 → exec (.setcb i c) s = .next { s with
      handlers := s.handlers.set i { s.handlers.get i with cb := some c }, result := none }) ∧
    (exec (.setcb i 0#8) s = .next
      (if Config.params.hardenedInit then { s with fault := some (.invalidCallback i), result := none }
       else { s with handlers := s.handlers.set i { s.handlers.get i with cb := none }, result := none }))

/-- 10_state.md R37: the callback slot is written only by `SETCB` and `RESET`. -/
def Obligations.SlotChangesOnlyBySetcbOrReset : Prop :=
  ∀ (k : Instr) (s t : State) (i : Chan), exec k s = .next t → k ≠ .reset → (∀ c, k ≠ .setcb i c) →
    (t.handlers.get i).cb = (s.handlers.get i).cb

/-- R142: a `CALL` that finds the slot none raises InvalidCallback, and the pending flags stay (R201, R246). -/
def Obligations.CallOfEmptySlotFaults : Prop :=
  ∀ (i : Chan) (st : Byte) (s : State), healthy s → (s.handlers.get i).cb = none →
    exec (.call i st) s = .next { s with fault := some (.invalidCallback i), result := none }

/-- 43_dispatcher.md R190: a `CALL` of callback 1 increments the display counter with wraparound at 15 to 0, or decrements it with
wraparound at 0 to 15, or is a no-op, and touches nothing but the display counter. The premise is R49's range. -/
def Obligations.CallRunsTheTwoButtonTable : Prop :=
  ∀ (i : Chan) (st : Byte) (s : State), healthy s → (s.handlers.get i).cb = some 0x01#8 → s.dsp.displayCounter.toNat ≤ 15 →
    ∃ c : Byte,
      exec (.call i st) s = .next { s with dsp := { s.dsp with displayCounter := c }, result := none } ∧
      c.toNat =
        if st = Config.params.codeInc then (s.dsp.displayCounter.toNat + 1) % 16
        else if st = Config.params.codeDec then (s.dsp.displayCounter.toNat + 15) % 16
        else s.dsp.displayCounter.toNat

/-- 43_dispatcher.md R191: a `CALL` of callback 2 toggles bit LED_BIT of `led_out` on its one code, does nothing on any other, and
touches nothing but `led_out`. -/
def Obligations.CallRunsTheFourButtonTable : Prop :=
  ∀ (i : Chan) (st : Byte) (s : State), healthy s → (s.handlers.get i).cb = some 0x02#8 →
    ∃ v : Byte,
      exec (.call i st) s = .next { s with dsp := { s.dsp with ledOut := v }, result := none } ∧
      ∀ b, b < 8 → bit v b =
        if st = Config.params.codeToggle ∧ b = Config.params.ledBit.val then !bit s.dsp.ledOut b else bit s.dsp.ledOut b

/-- 43_dispatcher.md R192: only exact equality with a recognised code matches. Every other status byte is silently ignored by
both tables, and so, whatever the recognised codes are, is every byte that has not exactly one bit set (no press, or several at
once). -/
def Obligations.UnrecognisedStatusIsIgnored : Prop :=
  ∀ (i : Chan) (st : Byte) (s : State), healthy s →
    ((s.handlers.get i).cb = some 0x01#8 ∧ st ≠ Config.params.codeInc ∧ st ≠ Config.params.codeDec) ∨
      ((s.handlers.get i).cb = some 0x02#8 ∧ st ≠ Config.params.codeToggle) ∨
      (((s.handlers.get i).cb = some 0x01#8 ∨ (s.handlers.get i).cb = some 0x02#8) ∧ popcount st ≠ 1) →
    exec (.call i st) s = .next { s with result := none }

/-- 43_dispatcher.md R193, R194: a caller-supplied callback always completes or faults inside its `CALL`, and whatever it does it
leaves the pins, the slots, the handlers' positions, the main line and the four counters alone. The display counter and `led_out`
are not in the frame: R193 lets a callback update them, and R194's clause on their writers gives way (DESIGN CHOICE, log entry 27). -/
def Obligations.CallerSuppliedCallbackFrame : Prop :=
  ∀ (i : Chan) (c st : Byte) (s : State), healthy s → (s.handlers.get i).cb = some c → 3 ≤ c.toNat →
    ∃ t, exec (.call i st) s = .next t ∧
      (∀ j, (t.eic.get j).pin = (s.eic.get j).pin) ∧ t.handlers = s.handlers ∧ t.main = s.main ∧ t.turns = s.turns ∧
      t.pta.msElapsed = s.pta.msElapsed ∧ t.pta.milliseconds = s.pta.milliseconds ∧ t.pta.seconds = s.pta.seconds ∧
      t.pta.minutes = s.pta.minutes

/-! ## The accumulator (42_tick_accumulator.md) -/

/-- R170, R172, R174 to R177: each read delivers its flag or counter zero-extended, never faults and changes nothing. -/
def Obligations.StopwatchReadsDeliverTheCounters : Prop :=
  ∀ s : State, healthy s →
    exec .rdStart s = .next { s with result := some (if s.pta.start then 0x01#8 else 0x00#8) } ∧
    exec .rdRstreq s = .next { s with result := some (if s.pta.rstReq then 0x01#8 else 0x00#8) } ∧
    exec .rdMsel s = .next { s with result := some (BitVec.ofNat 8 s.pta.msElapsed.toNat) } ∧
    exec .rdMs s = .next { s with result := some (BitVec.ofNat 8 s.pta.milliseconds.toNat) } ∧
    exec .rdSec s = .next { s with result := some (BitVec.ofNat 8 s.pta.seconds.toNat) } ∧
    exec .rdMin s = .next { s with result := some (BitVec.ofNat 8 s.pta.minutes.toNat) }

/-- R171, R173: a write of `START` or `RSTREQ` stores bit 0 of the byte and touches neither the other flag nor the counters. -/
def Obligations.StopwatchFlagWritesStoreBitZero : Prop :=
  ∀ (d : Byte) (s : State), healthy s →
    exec (.wrStart d) s = .next { s with pta := { s.pta with start := bit d 0 }, result := none } ∧
    exec (.wrRstreq d) s = .next { s with pta := { s.pta with rstReq := bit d 0 }, result := none }

/-- R178: one `TICK` is the pseudocode of the rule on whatever values are stored: four tests one after the other, then the reset
request served whether or not the run flag was set; nothing but the accumulator changes. -/
def Obligations.TickFollowsTheCascade : Prop :=
  ∀ s : State, healthy s → ∃ q : Accumulator,
    exec .tick s = .next { s with pta := q, result := none } ∧
    (s.pta.rstReq = true → q = ⟨0, 0, 0, 0, false, false⟩) ∧
    (s.pta.rstReq = false → s.pta.start = false → q = s.pta) ∧
    (s.pta.rstReq = false → s.pta.start = true → q.start = true ∧ q.rstReq = false ∧
      ∀ carryD carryS carryM : Nat,
        carryD = (if 99 ≤ s.pta.msElapsed.toNat then 1 else 0) →
        carryS = (if 9 < s.pta.milliseconds.toNat + carryD then 1 else 0) →
        carryM = (if 59 < s.pta.seconds.toNat + carryS then 1 else 0) →
        q.msElapsed.toNat = (if carryD = 1 then 0 else s.pta.msElapsed.toNat + 1) ∧
        q.milliseconds.toNat = (if carryS = 1 then 0 else s.pta.milliseconds.toNat + carryD) ∧
        q.seconds.toNat = (if carryM = 1 then 0 else s.pta.seconds.toNat + carryS) ∧
        q.minutes.toNat = (if 9 < s.pta.minutes.toNat + carryM then 0 else s.pta.minutes.toNat + carryM))

/-- R179 (which the spec derives from R178): from counters in range that encode T, n ticks with the run flag set and no reset request give the counters that encode
(T + n) mod 600000, in range, the flags as they were and nothing else changed. -/
def Obligations.TicksCountModuloTenMinutes : Prop :=
  ∀ (n : Nat) (s : State), healthy s → CountersInRange s.pta → s.pta.start = true → s.pta.rstReq = false → 0 < n →
    ∃ q : Accumulator,
      tickTimes n s = .next { s with pta := q, result := none } ∧
      CountersInRange q ∧ timeOf q = (timeOf s.pta + n) % 600000 ∧ q.start = true ∧ q.rstReq = false

/-- R181 (which the spec derives from R178): a tick that finds a reset request yields all four counters 0 and both flags false, regardless of prior state, and any
number of further ticks changes nothing. -/
def Obligations.ResetRequestStopsAtZero : Prop :=
  ∀ (n : Nat) (s : State), healthy s → s.pta.rstReq = true →
    exec .tick s = .next { s with pta := ⟨0, 0, 0, 0, false, false⟩, result := none } ∧
    tickTimes (n + 1) s = .next { s with pta := ⟨0, 0, 0, 0, false, false⟩, result := none }

/-- R180 (which the spec derives from R178): with both flags 0 a `TICK` changes no state at all (no byte is delivered). -/
def Obligations.StoppedTickChangesNothing : Prop :=
  ∀ s : State, healthy s → s.pta.start = false → s.pta.rstReq = false → exec .tick s = .next { s with result := none }

/-- 60_exceptions.md R203 (which the spec derives from R178): a tick that runs or serves a request leaves every counter in range
from any stored value, so CounterOverflowViolation never arises. -/
def Obligations.TickBringsCountersIntoRange : Prop :=
  ∀ s t : State, exec .tick s = .next t → s.pta.start = true ∨ s.pta.rstReq = true → CountersInRange t.pta

/-- R39 to R42: the four counters are written only by `TICK` and `RESET`. -/
def Obligations.CountersChangeOnlyByTickOrReset : Prop :=
  ∀ (k : Instr) (s t : State), exec k s = .next t → k ≠ .tick → k ≠ .reset →
    t.pta.msElapsed = s.pta.msElapsed ∧ t.pta.milliseconds = s.pta.milliseconds ∧ t.pta.seconds = s.pta.seconds ∧
      t.pta.minutes = s.pta.minutes

/-! ## The interrupt-controller stub (44_intc_stub.md) -/

/-- R195 to R198: `SETEN` reads the enables zero-extended and a write sets exactly the enables named by bits 1:0; a priority byte
is stored and read back; none of the four faults or changes anything else. -/
def Obligations.InterruptControllerAccesses : Prop :=
  ∀ (n : Chan) (d : Byte) (s : State), healthy s →
    exec .rdSeten s = .next { s with result := some (BitVec.ofNat 8 s.intc.en.toNat) } ∧
    (∃ e : BitVec 2, exec (.wrSeten d) s = .next { s with intc := { s.intc with en := e }, result := none } ∧
      ∀ b, b < 2 → e.getLsbD b = (s.intc.en.getLsbD b || bit d b)) ∧
    exec (.rdPri n) s = .next { s with result := some (s.intc.pri.get n) } ∧
    exec (.wrPri n d) s = .next { s with intc := { s.intc with pri := s.intc.pri.set n d }, result := none }

/-- 10_state.md R47: no stimulus but `RESET` clears a line enable. -/
def Obligations.LineEnablesClearedOnlyByReset : Prop :=
  ∀ (k : Instr) (s t : State) (b : Nat), exec k s = .next t → k ≠ .reset → s.intc.en.getLsbD b = true →
    t.intc.en.getLsbD b = true

/-! ## Coincident events (60_exceptions.md) -/

/-- R213: a `PIN` and a `TICK` that coincide commute. -/
def Obligations.PinAndTickCommute : Prop :=
  ∀ (i : Chan) (p : Byte) (s : State), healthy s → ∃ a b t : State,
    exec (.pin i p) s = .next a ∧ exec .tick a = .next t ∧ exec .tick s = .next b ∧ exec (.pin i p) b = .next t

/-- R213: a `PIN` on channel 0 and a `PIN` on channel 1 that coincide commute. That the two channels' unspecified flags are drawn
apart, so that they commute in the drawn bits too, is the model's form of a draw (log entry 3). -/
def Obligations.PinsOfBothChannelsCommute : Prop :=
  ∀ (p q : Byte) (s : State), healthy s → ∃ a b t : State,
    exec (.pin .c0 p) s = .next a ∧ exec (.pin .c1 q) a = .next t ∧
    exec (.pin .c1 q) s = .next b ∧ exec (.pin .c0 p) b = .next t

/-- R213 (70_reset_and_hazards.md R240): a `PIN` with a rising edge on an armed pin and a `WR.ICR` that names the pin do not
commute. Edge then clear loses the edge; clear then edge keeps it. -/
def Obligations.EdgeAgainstAcknowledgeOrderMatters : Prop :=
  ∀ (i : Chan) (p d : Byte) (b : Nat) (s : State), healthy s → b < 8 → armedAt (s.eic.get i) b →
    bit (s.eic.get i).pin b = false → bit p b = true → bit d b = true →
    (∃ u t, exec (.pin i p) s = .next u ∧ exec (.wrIcr i d) u = .next t ∧ bit (t.eic.get i).ris b = false) ∧
    (∃ u t, exec (.wrIcr i d) s = .next u ∧ exec (.pin i p) u = .next t ∧ bit (t.eic.get i).ris b = true)

/-- R213 (70_reset_and_hazards.md R245): a `TICK` and a write that sets `START` or `RSTREQ` do not commute. A start before the tick
advances the subdivider, one after it does not; a request before the tick is served by it, one after it still stands. -/
def Obligations.TickAgainstFlagWriteOrderMatters : Prop :=
  ∀ (d : Byte) (s : State), healthy s → bit d 0 = true → s.pta.rstReq = false →
    (s.pta.start = false →
      (∃ u t, exec .tick s = .next u ∧ exec (.wrStart d) u = .next t ∧ t.pta = { s.pta with start := true }) ∧
      (∃ u t, exec (.wrStart d) s = .next u ∧ exec .tick u = .next t ∧
        t.pta.msElapsed.toNat = if 99 ≤ s.pta.msElapsed.toNat then 0 else s.pta.msElapsed.toNat + 1)) ∧
    (∃ u t, exec .tick s = .next u ∧ exec (.wrRstreq d) u = .next t ∧ t.pta.rstReq = true) ∧
    (∃ u t, exec (.wrRstreq d) s = .next u ∧ exec .tick u = .next t ∧ t.pta = ⟨0, 0, 0, 0, false, false⟩)

/-! ## The software agents (41_edge_channel_operation.md, 60_exceptions.md) -/

/-- R146: a turn of an idle H[i] starts an invocation exactly where no fault is recorded, the line is 1 and nothing bars it, and
the start changes nothing but the handler's position. That a start is a turn of its own is the model's (log entry 24). -/
def Obligations.HandlerStartsOnlyWhenDue : Prop :=
  ∀ (s : State) (i : Chan) (rest : List Turn), s.turns = .handler i :: rest → (s.handlers.get i).phase = .idle →
    (∀ t, step s = .next t → (t.handlers.get i).phase ≠ .idle → healthy s ∧ line s i = true ∧ Unbarred i s) ∧
    (healthy s → line s i = true → Unbarred i s →
      step s = .next { s with
        turns := rest, handlers := s.handlers.set i { s.handlers.get i with phase := .entered } })

/-- R147: a started invocation that finds no monitored pin pending at H1 is one read of `MIS` and nothing else: no callback, no
register changed, and the handler idle again. The line need not be 1 any more: the flags may have been cleared since the
start. -/
def Obligations.SpuriousEntryIsHarmless : Prop :=
  ∀ (s : State) (i : Chan) (rest : List Turn), s.turns = .handler i :: rest → healthy s →
    (s.handlers.get i).phase = .entered → (s.eic.get i).clken = true → Unbarred i s →
    (s.eic.get i).ris &&& (s.eic.get i).im &&& Config.params.mask.get i = 0#8 →
    step s = .next { s with
      turns := rest, handlers := s.handlers.set i { s.handlers.get i with phase := .idle },
      result := some ((s.eic.get i).ris &&& (s.eic.get i).im) }

/-- R145: with a monitored pin pending, one of the two tables registered and both ports clocked, the start and the four steps of an
invocation complete. The status byte st that the table gets is made of the live levels of port j, not of the pending flags
(90_conflicts.md C3), and masked with STATUS_MASK; the flags of ACK_MASK are acknowledged; everything else is as before and the
handler is idle again. The premise on the display counter is R49's range. -/
def Obligations.HandlerInvocationAcknowledges : Prop :=
  ∀ (s : State) (i j : Chan) (sm am : Byte) (rest : List Turn),
    j = (if Config.params.xport.get i then i.other else i) →
    sm = (if Config.params.xport.get i then Config.params.statusMaskOpen.get i else Config.params.mask.get i) →
    am = (if Config.params.xport.get i then Config.params.ackMaskOpen.get i else Config.params.mask.get i) →
    s.turns = .handler i :: .handler i :: .handler i :: .handler i :: .handler i :: rest → healthy s →
    (∀ k, (s.eic.get k).clken = true) → (∀ k, (s.handlers.get k).phase = .idle) → line s i = true →
    (s.eic.get i).ris &&& (s.eic.get i).im &&& Config.params.mask.get i ≠ 0#8 →
    ((s.handlers.get i).cb = some 0x01#8 ∨ (s.handlers.get i).cb = some 0x02#8) →
    ∃ (t : State) (st : Byte), Host.Core.run core 5 s = .next t ∧ t.turns = rest ∧ healthy t ∧
      (∀ k, t.handlers.get k = s.handlers.get k) ∧
      t.eic.get i = { s.eic.get i with ris := (s.eic.get i).ris &&& ~~~am } ∧
      t.eic.get i.other = s.eic.get i.other ∧ t.pta = s.pta ∧ t.intc = s.intc ∧ t.main = s.main ∧
      (∀ b, b < 8 →
        (bit sm b = false → bit st b = false) ∧
        (bit sm b = true → digInAt (s.eic.get j) b → bit st b = bit (s.eic.get j).pin b) ∧
        (bit sm b = true → ¬ digInAt (s.eic.get j) b →
          bit st b = bit (Config.draw (.eic j) (s.draws.eic.get j)) b)) ∧
      ((s.handlers.get i).cb = some 0x01#8 → t.dsp.ledOut = s.dsp.ledOut ∧
        (s.dsp.displayCounter.toNat ≤ 15 → t.dsp.displayCounter.toNat =
          if st = Config.params.codeInc then (s.dsp.displayCounter.toNat + 1) % 16
          else if st = Config.params.codeDec then (s.dsp.displayCounter.toNat + 15) % 16
          else s.dsp.displayCounter.toNat)) ∧
      ((s.handlers.get i).cb = some 0x02#8 → t.dsp.displayCounter = s.dsp.displayCounter ∧
        ∀ b, b < 8 → bit t.dsp.ledOut b =
          if st = Config.params.codeToggle ∧ b = Config.params.ledBit.val then !bit s.dsp.ledOut b
          else bit s.dsp.ledOut b)

/-- R145, the faults of an invocation (R201, 70_reset_and_hazards.md R246): BusError at H1 and at H2 where the port read is not
clocked, and InvalidCallback at H3 where the slot is none. The invocation stays where it was and the flags stay pending. -/
def Obligations.HandlerFaultsStopTheInvocation : Prop :=
  ∀ (s : State) (i : Chan) (rest : List Turn), s.turns = .handler i :: rest → healthy s → Unbarred i s →
    ((s.handlers.get i).phase = .entered → (s.eic.get i).clken = false →
      step s = .next { s with
        turns := rest, fault := some (.busError (chanBase i + 0x09#8) .read), result := none }) ∧
    (∀ (m : Byte) (j : Chan), j = (if Config.params.xport.get i then i.other else i) →
      (s.handlers.get i).phase = .tested m → (s.eic.get j).clken = false →
      step s = .next { s with turns := rest, fault := some (.busError (chanBase j) .read), result := none }) ∧
    (∀ m st : Byte, (s.handlers.get i).phase = .sampled m st → (s.handlers.get i).cb = none →
      step s = .next { s with turns := rest, fault := some (.invalidCallback i), result := none })

/-- 60_exceptions.md R214: the main line never steps while a handler invocation is in progress; its turns pass. That they pass is
the model's choice (log entry 8), and what "in progress" is, is read from 70_reset_and_hazards.md R251 (log entry 24). -/
def Obligations.MainLineWaitsForHandlers : Prop :=
  ∀ (s : State) (u : Turn) (rest : List Turn) (j : Chan), s.turns = u :: rest → healthy s →
    inProgress j s = true → (u = .main ∨ (∃ i c, u = .init i c) ∨ ∃ i, u = .readStatus .mainLine i) →
    step s = .next { s with turns := rest }

/-- R143: the 21 steps of `INIT i, c`, undisturbed (and not turned away at its first step, R141), leave the channel initialized,
every register bit outside the monitored pins as before, and nothing else of the block changed. -/
def Obligations.InitLeavesTheChannelInitialized : Prop :=
  ∀ (s : State) (i : Chan) (c : Byte) (rest : List Turn), s.turns = .init i c :: (List.replicate 20 .main ++ rest) →
    healthy s → s.main = .idle → (∀ j, inProgress j s = false) →
    (c ≠ 0#8 ∨ Config.params.hardenedInit = false) →
    ∃ t, Host.Core.run core 21 s = .next t ∧ healthy t ∧ t.turns = rest ∧ t.main = .idle ∧
      Initialized Config.params i c t ∧
      (∀ b, b < 8 → bit (Config.params.mask.get i) b = false →
        bit (t.eic.get i).dir b = bit (s.eic.get i).dir b ∧ bit (t.eic.get i).afsel b = bit (s.eic.get i).afsel b ∧
        bit (t.eic.get i).den b = bit (s.eic.get i).den b ∧ bit (t.eic.get i).pull b = bit (s.eic.get i).pull b ∧
        bit (t.eic.get i).sense b = bit (s.eic.get i).sense b ∧ bit (t.eic.get i).ibe b = bit (s.eic.get i).ibe b ∧
        bit (t.eic.get i).iev b = bit (s.eic.get i).iev b ∧ bit (t.eic.get i).im b = bit (s.eic.get i).im b ∧
        bit (t.eic.get i).ris b = bit (s.eic.get i).ris b) ∧
      (t.eic.get i).pin = (s.eic.get i).pin ∧ t.eic.get i.other = s.eic.get i.other ∧
      t.handlers.get i.other = s.handlers.get i.other ∧ (t.handlers.get i).phase = (s.handlers.get i).phase ∧
      chanBit t.intc.en i.other = chanBit s.intc.en i.other ∧ t.intc.pri.get i.other = s.intc.pri.get i.other ∧
      t.pta = s.pta ∧ t.dsp = s.dsp

/-- R144: `READSTATUS i` of any software agent that may step (30_encoding.md R90, 60_exceptions.md R214) delivers the live levels of
the monitored pins (a drawn bit for one that is not digital-in), 0 outside the mask, and changes no state of the block nor the
agent's position; with the port clock off it raises BusError. When an agent may issue it, and that a handler agent's position
stays as it was, are the model's reading (DEDUCED, log entry 21). -/
def Obligations.ReadStatusGivesMaskedLevels : Prop :=
  ∀ (s : State) (a : Agent) (i : Chan) (rest : List Turn), s.turns = .readStatus a i :: rest → healthy s →
    MayReadStatus s a →
    ((s.eic.get i).clken = true → ∃ r : Byte,
      step s = .next { s with turns := rest, result := some r, draws := s.draws.bump (.eic i) } ∧
      ∀ b, b < 8 →
        (bit (Config.params.mask.get i) b = false → bit r b = false) ∧
        (bit (Config.params.mask.get i) b = true → digInAt (s.eic.get i) b → bit r b = bit (s.eic.get i).pin b) ∧
        (bit (Config.params.mask.get i) b = true → ¬ digInAt (s.eic.get i) b →
          bit r b = bit (Config.draw (.eic i) (s.draws.eic.get i)) b)) ∧
    ((s.eic.get i).clken = false →
      step s = .next { s with turns := rest, fault := some (.busError (chanBase i) .read), result := none })

/-! ## Invariants -/

/-- 10_state.md R45, R49 and 60_exceptions.md R203 (inferences of the spec's own) and R37: every step keeps the counters and the
display counter in range, no slot holding the null identifier, and no counter overflow recorded. That a caller-supplied callback
stores only 0 to 15 in the display counter is the model's reading of R49 (log entry 13). -/
def Obligations.StepKeepsTheBlockInvariant : Prop := ∀ s t : State, BlockInv s → step s = .next t → BlockInv t

/-- The block invariant holds at reset: the base case of `StepKeepsTheBlockInvariant`. -/
def Obligations.ResetMeetsTheBlockInvariant : Prop := BlockInv State.reset

/-- 41_edge_channel_operation.md R145, R147, R143 and 60_exceptions.md R214: every step keeps the handlers' locals masked and
their test passed, the main line within its 21 stimuli, and the handlers both in progress only where one may preempt the other.
That the open case of R214 is so resolved is the model's reading (log entry 10). -/
def Obligations.StepKeepsTheAgentInvariant : Prop :=
  ∀ s t : State, AgentInv Config.params s → step s = .next t → AgentInv Config.params t

/-- The agent invariant holds at reset: the base case of `StepKeepsTheAgentInvariant`. -/
def Obligations.ResetMeetsTheAgentInvariant : Prop := AgentInv Config.params State.reset
end

