-- ==== Sys2Proof/Laws/State.lean ====
section
/-! SUPPORT. The small lemmas of the state: one per field per named update, and get after set for the pairs kept per channel. -/

namespace Sys2Proof

@[simp] theorem PerChan.get_set_same {α : Type} (x : PerChan α) (i : Chan) (v : α) : (x.set i v).get i = v := by
  cases i <;> rfl

@[simp] theorem PerChan.get_set_other {α : Type} (x : PerChan α) (i : Chan) (v : α) :
    (x.set i v).get i.other = x.get i.other := by cases i <;> rfl

theorem PerChan.get_set {α : Type} (x : PerChan α) (i j : Chan) (v : α) :
    (x.set i v).get j = if j = i then v else x.get j := by cases i <;> cases j <;> rfl

@[simp] theorem PerChan.set_get {α : Type} (x : PerChan α) (i : Chan) : x.set i (x.get i) = x := by cases i <;> rfl

@[simp] theorem PerChan.set_set {α : Type} (x : PerChan α) (i : Chan) (v w : α) : (x.set i v).set i w = x.set i w := by
  cases i <;> rfl

@[simp] theorem PerChan.get_both {α : Type} (v : α) (i : Chan) : (PerChan.both v).get i = v := by cases i <;> rfl

theorem PerChan.ext_get {α : Type} {x y : PerChan α} (h : ∀ i, x.get i = y.get i) : x = y := by
  cases x; cases y
  exact PerChan.mk.injEq .. ▸ ⟨h .c0, h .c1⟩

@[simp] theorem Chan.other_other (i : Chan) : i.other.other = i := by cases i <;> rfl

@[simp] theorem Chan.other_ne (i : Chan) : i.other ≠ i := by cases i <;> decide

theorem Chan.eq_or_other (i j : Chan) : j = i ∨ j = i.other := by cases i <;> cases j <;> decide

namespace Machine


/-! ## updEic -/

@[simp] theorem State.updEic_eic (s : State) (i : Chan) (f : Channel → Channel) : (s.updEic i f).eic = s.eic.set i (f (s.eic.get i)) := rfl
@[simp] theorem State.updEic_handlers (s : State) (i : Chan) (f : Channel → Channel) : (s.updEic i f).handlers = s.handlers := rfl
@[simp] theorem State.updEic_pta (s : State) (i : Chan) (f : Channel → Channel) : (s.updEic i f).pta = s.pta := rfl
@[simp] theorem State.updEic_intc (s : State) (i : Chan) (f : Channel → Channel) : (s.updEic i f).intc = s.intc := rfl
@[simp] theorem State.updEic_dsp (s : State) (i : Chan) (f : Channel → Channel) : (s.updEic i f).dsp = s.dsp := rfl
@[simp] theorem State.updEic_fault (s : State) (i : Chan) (f : Channel → Channel) : (s.updEic i f).fault = s.fault := rfl
@[simp] theorem State.updEic_main (s : State) (i : Chan) (f : Channel → Channel) : (s.updEic i f).main = s.main := rfl
@[simp] theorem State.updEic_result (s : State) (i : Chan) (f : Channel → Channel) : (s.updEic i f).result = s.result := rfl
@[simp] theorem State.updEic_draws (s : State) (i : Chan) (f : Channel → Channel) : (s.updEic i f).draws = s.draws := rfl
@[simp] theorem State.updEic_turns (s : State) (i : Chan) (f : Channel → Channel) : (s.updEic i f).turns = s.turns := rfl

/-! ## updHandler -/

@[simp] theorem State.updHandler_eic (s : State) (i : Chan) (f : Handler → Handler) : (s.updHandler i f).eic = s.eic := rfl
@[simp] theorem State.updHandler_handlers (s : State) (i : Chan) (f : Handler → Handler) : (s.updHandler i f).handlers = s.handlers.set i (f (s.handlers.get i)) := rfl
@[simp] theorem State.updHandler_pta (s : State) (i : Chan) (f : Handler → Handler) : (s.updHandler i f).pta = s.pta := rfl
@[simp] theorem State.updHandler_intc (s : State) (i : Chan) (f : Handler → Handler) : (s.updHandler i f).intc = s.intc := rfl
@[simp] theorem State.updHandler_dsp (s : State) (i : Chan) (f : Handler → Handler) : (s.updHandler i f).dsp = s.dsp := rfl
@[simp] theorem State.updHandler_fault (s : State) (i : Chan) (f : Handler → Handler) : (s.updHandler i f).fault = s.fault := rfl
@[simp] theorem State.updHandler_main (s : State) (i : Chan) (f : Handler → Handler) : (s.updHandler i f).main = s.main := rfl
@[simp] theorem State.updHandler_result (s : State) (i : Chan) (f : Handler → Handler) : (s.updHandler i f).result = s.result := rfl
@[simp] theorem State.updHandler_draws (s : State) (i : Chan) (f : Handler → Handler) : (s.updHandler i f).draws = s.draws := rfl
@[simp] theorem State.updHandler_turns (s : State) (i : Chan) (f : Handler → Handler) : (s.updHandler i f).turns = s.turns := rfl

/-! ## updPta -/

@[simp] theorem State.updPta_eic (s : State) (f : Accumulator → Accumulator) : (s.updPta f).eic = s.eic := rfl
@[simp] theorem State.updPta_handlers (s : State) (f : Accumulator → Accumulator) : (s.updPta f).handlers = s.handlers := rfl
@[simp] theorem State.updPta_pta (s : State) (f : Accumulator → Accumulator) : (s.updPta f).pta = f s.pta := rfl
@[simp] theorem State.updPta_intc (s : State) (f : Accumulator → Accumulator) : (s.updPta f).intc = s.intc := rfl
@[simp] theorem State.updPta_dsp (s : State) (f : Accumulator → Accumulator) : (s.updPta f).dsp = s.dsp := rfl
@[simp] theorem State.updPta_fault (s : State) (f : Accumulator → Accumulator) : (s.updPta f).fault = s.fault := rfl
@[simp] theorem State.updPta_main (s : State) (f : Accumulator → Accumulator) : (s.updPta f).main = s.main := rfl
@[simp] theorem State.updPta_result (s : State) (f : Accumulator → Accumulator) : (s.updPta f).result = s.result := rfl
@[simp] theorem State.updPta_draws (s : State) (f : Accumulator → Accumulator) : (s.updPta f).draws = s.draws := rfl
@[simp] theorem State.updPta_turns (s : State) (f : Accumulator → Accumulator) : (s.updPta f).turns = s.turns := rfl

/-! ## updIntc -/

@[simp] theorem State.updIntc_eic (s : State) (f : IntCtl → IntCtl) : (s.updIntc f).eic = s.eic := rfl
@[simp] theorem State.updIntc_handlers (s : State) (f : IntCtl → IntCtl) : (s.updIntc f).handlers = s.handlers := rfl
@[simp] theorem State.updIntc_pta (s : State) (f : IntCtl → IntCtl) : (s.updIntc f).pta = s.pta := rfl
@[simp] theorem State.updIntc_intc (s : State) (f : IntCtl → IntCtl) : (s.updIntc f).intc = f s.intc := rfl
@[simp] theorem State.updIntc_dsp (s : State) (f : IntCtl → IntCtl) : (s.updIntc f).dsp = s.dsp := rfl
@[simp] theorem State.updIntc_fault (s : State) (f : IntCtl → IntCtl) : (s.updIntc f).fault = s.fault := rfl
@[simp] theorem State.updIntc_main (s : State) (f : IntCtl → IntCtl) : (s.updIntc f).main = s.main := rfl
@[simp] theorem State.updIntc_result (s : State) (f : IntCtl → IntCtl) : (s.updIntc f).result = s.result := rfl
@[simp] theorem State.updIntc_draws (s : State) (f : IntCtl → IntCtl) : (s.updIntc f).draws = s.draws := rfl
@[simp] theorem State.updIntc_turns (s : State) (f : IntCtl → IntCtl) : (s.updIntc f).turns = s.turns := rfl

/-! ## updDsp -/

@[simp] theorem State.updDsp_eic (s : State) (f : Dsp → Dsp) : (s.updDsp f).eic = s.eic := rfl
@[simp] theorem State.updDsp_handlers (s : State) (f : Dsp → Dsp) : (s.updDsp f).handlers = s.handlers := rfl
@[simp] theorem State.updDsp_pta (s : State) (f : Dsp → Dsp) : (s.updDsp f).pta = s.pta := rfl
@[simp] theorem State.updDsp_intc (s : State) (f : Dsp → Dsp) : (s.updDsp f).intc = s.intc := rfl
@[simp] theorem State.updDsp_dsp (s : State) (f : Dsp → Dsp) : (s.updDsp f).dsp = f s.dsp := rfl
@[simp] theorem State.updDsp_fault (s : State) (f : Dsp → Dsp) : (s.updDsp f).fault = s.fault := rfl
@[simp] theorem State.updDsp_main (s : State) (f : Dsp → Dsp) : (s.updDsp f).main = s.main := rfl
@[simp] theorem State.updDsp_result (s : State) (f : Dsp → Dsp) : (s.updDsp f).result = s.result := rfl
@[simp] theorem State.updDsp_draws (s : State) (f : Dsp → Dsp) : (s.updDsp f).draws = s.draws := rfl
@[simp] theorem State.updDsp_turns (s : State) (f : Dsp → Dsp) : (s.updDsp f).turns = s.turns := rfl

/-! ## setResult -/

@[simp] theorem State.setResult_eic (s : State) (r : Option Byte) : (s.setResult r).eic = s.eic := rfl
@[simp] theorem State.setResult_handlers (s : State) (r : Option Byte) : (s.setResult r).handlers = s.handlers := rfl
@[simp] theorem State.setResult_pta (s : State) (r : Option Byte) : (s.setResult r).pta = s.pta := rfl
@[simp] theorem State.setResult_intc (s : State) (r : Option Byte) : (s.setResult r).intc = s.intc := rfl
@[simp] theorem State.setResult_dsp (s : State) (r : Option Byte) : (s.setResult r).dsp = s.dsp := rfl
@[simp] theorem State.setResult_fault (s : State) (r : Option Byte) : (s.setResult r).fault = s.fault := rfl
@[simp] theorem State.setResult_main (s : State) (r : Option Byte) : (s.setResult r).main = s.main := rfl
@[simp] theorem State.setResult_result (s : State) (r : Option Byte) : (s.setResult r).result = r := rfl
@[simp] theorem State.setResult_draws (s : State) (r : Option Byte) : (s.setResult r).draws = s.draws := rfl
@[simp] theorem State.setResult_turns (s : State) (r : Option Byte) : (s.setResult r).turns = s.turns := rfl

/-! ## setMain -/

@[simp] theorem State.setMain_eic (s : State) (m : MainPhase) : (s.setMain m).eic = s.eic := rfl
@[simp] theorem State.setMain_handlers (s : State) (m : MainPhase) : (s.setMain m).handlers = s.handlers := rfl
@[simp] theorem State.setMain_pta (s : State) (m : MainPhase) : (s.setMain m).pta = s.pta := rfl
@[simp] theorem State.setMain_intc (s : State) (m : MainPhase) : (s.setMain m).intc = s.intc := rfl
@[simp] theorem State.setMain_dsp (s : State) (m : MainPhase) : (s.setMain m).dsp = s.dsp := rfl
@[simp] theorem State.setMain_fault (s : State) (m : MainPhase) : (s.setMain m).fault = s.fault := rfl
@[simp] theorem State.setMain_main (s : State) (m : MainPhase) : (s.setMain m).main = m := rfl
@[simp] theorem State.setMain_result (s : State) (m : MainPhase) : (s.setMain m).result = s.result := rfl
@[simp] theorem State.setMain_draws (s : State) (m : MainPhase) : (s.setMain m).draws = s.draws := rfl
@[simp] theorem State.setMain_turns (s : State) (m : MainPhase) : (s.setMain m).turns = s.turns := rfl

/-! ## setPhase -/

@[simp] theorem State.setPhase_eic (s : State) (i : Chan) (p : Phase) : (s.setPhase i p).eic = s.eic := rfl
@[simp] theorem State.setPhase_handlers (s : State) (i : Chan) (p : Phase) : (s.setPhase i p).handlers = s.handlers.set i { s.handlers.get i with phase := p } := rfl
@[simp] theorem State.setPhase_pta (s : State) (i : Chan) (p : Phase) : (s.setPhase i p).pta = s.pta := rfl
@[simp] theorem State.setPhase_intc (s : State) (i : Chan) (p : Phase) : (s.setPhase i p).intc = s.intc := rfl
@[simp] theorem State.setPhase_dsp (s : State) (i : Chan) (p : Phase) : (s.setPhase i p).dsp = s.dsp := rfl
@[simp] theorem State.setPhase_fault (s : State) (i : Chan) (p : Phase) : (s.setPhase i p).fault = s.fault := rfl
@[simp] theorem State.setPhase_main (s : State) (i : Chan) (p : Phase) : (s.setPhase i p).main = s.main := rfl
@[simp] theorem State.setPhase_result (s : State) (i : Chan) (p : Phase) : (s.setPhase i p).result = s.result := rfl
@[simp] theorem State.setPhase_draws (s : State) (i : Chan) (p : Phase) : (s.setPhase i p).draws = s.draws := rfl
@[simp] theorem State.setPhase_turns (s : State) (i : Chan) (p : Phase) : (s.setPhase i p).turns = s.turns := rfl

/-! ## setSlot -/

@[simp] theorem State.setSlot_eic (s : State) (i : Chan) (c : Option Byte) : (s.setSlot i c).eic = s.eic := rfl
@[simp] theorem State.setSlot_handlers (s : State) (i : Chan) (c : Option Byte) : (s.setSlot i c).handlers = s.handlers.set i { s.handlers.get i with cb := c } := rfl
@[simp] theorem State.setSlot_pta (s : State) (i : Chan) (c : Option Byte) : (s.setSlot i c).pta = s.pta := rfl
@[simp] theorem State.setSlot_intc (s : State) (i : Chan) (c : Option Byte) : (s.setSlot i c).intc = s.intc := rfl
@[simp] theorem State.setSlot_dsp (s : State) (i : Chan) (c : Option Byte) : (s.setSlot i c).dsp = s.dsp := rfl
@[simp] theorem State.setSlot_fault (s : State) (i : Chan) (c : Option Byte) : (s.setSlot i c).fault = s.fault := rfl
@[simp] theorem State.setSlot_main (s : State) (i : Chan) (c : Option Byte) : (s.setSlot i c).main = s.main := rfl
@[simp] theorem State.setSlot_result (s : State) (i : Chan) (c : Option Byte) : (s.setSlot i c).result = s.result := rfl
@[simp] theorem State.setSlot_draws (s : State) (i : Chan) (c : Option Byte) : (s.setSlot i c).draws = s.draws := rfl
@[simp] theorem State.setSlot_turns (s : State) (i : Chan) (c : Option Byte) : (s.setSlot i c).turns = s.turns := rfl

/-! ## afterDraw -/

@[simp] theorem State.afterDraw_eic (s : State) (w : DrawSite) : (s.afterDraw w).eic = s.eic := rfl
@[simp] theorem State.afterDraw_handlers (s : State) (w : DrawSite) : (s.afterDraw w).handlers = s.handlers := rfl
@[simp] theorem State.afterDraw_pta (s : State) (w : DrawSite) : (s.afterDraw w).pta = s.pta := rfl
@[simp] theorem State.afterDraw_intc (s : State) (w : DrawSite) : (s.afterDraw w).intc = s.intc := rfl
@[simp] theorem State.afterDraw_dsp (s : State) (w : DrawSite) : (s.afterDraw w).dsp = s.dsp := rfl
@[simp] theorem State.afterDraw_fault (s : State) (w : DrawSite) : (s.afterDraw w).fault = s.fault := rfl
@[simp] theorem State.afterDraw_main (s : State) (w : DrawSite) : (s.afterDraw w).main = s.main := rfl
@[simp] theorem State.afterDraw_result (s : State) (w : DrawSite) : (s.afterDraw w).result = s.result := rfl
@[simp] theorem State.afterDraw_draws (s : State) (w : DrawSite) : (s.afterDraw w).draws = s.draws.bump w := rfl
@[simp] theorem State.afterDraw_turns (s : State) (w : DrawSite) : (s.afterDraw w).turns = s.turns := rfl

/-! ## Counting the draws -/

@[simp] theorem DrawCounts.bump_eic (n : DrawCounts) (i : Chan) :
    n.bump (.eic i) = { n with eic := n.eic.set i (n.eic.get i + 1) } := rfl

@[simp] theorem DrawCounts.bump_dsp (n : DrawCounts) : n.bump .dsp = { n with dsp := n.dsp + 1 } := rfl

/-- A draw of one part leaves the counts of the others. -/
theorem DrawCounts.count_bump (n : DrawCounts) (v w : DrawSite) :
    (n.bump v).count w = if w = v then n.count v + 1 else n.count w := by
  rcases v with i | _ <;> rcases w with j | _ <;> (try cases i) <;> (try cases j) <;> rfl

/-- Draws of two parts may be counted in either order. -/
theorem DrawCounts.bump_comm (n : DrawCounts) (v w : DrawSite) : (n.bump v).bump w = (n.bump w).bump v := by
  rcases v with i | _ <;> rcases w with j | _ <;> (try cases i) <;> (try cases j) <;> rfl

/-! ## present -/

@[simp] theorem State.present_eic (s : State) (w : StimWord) : (s.present w).eic = s.eic := rfl
@[simp] theorem State.present_handlers (s : State) (w : StimWord) : (s.present w).handlers = s.handlers := rfl
@[simp] theorem State.present_pta (s : State) (w : StimWord) : (s.present w).pta = s.pta := rfl
@[simp] theorem State.present_intc (s : State) (w : StimWord) : (s.present w).intc = s.intc := rfl
@[simp] theorem State.present_dsp (s : State) (w : StimWord) : (s.present w).dsp = s.dsp := rfl
@[simp] theorem State.present_fault (s : State) (w : StimWord) : (s.present w).fault = s.fault := rfl
@[simp] theorem State.present_main (s : State) (w : StimWord) : (s.present w).main = s.main := rfl
@[simp] theorem State.present_result (s : State) (w : StimWord) : (s.present w).result = s.result := rfl
@[simp] theorem State.present_draws (s : State) (w : StimWord) : (s.present w).draws = s.draws := rfl
@[simp] theorem State.present_turns (s : State) (w : StimWord) : (s.present w).turns = .stim w :: s.turns := rfl

/-! ## raise -/

@[simp] theorem State.raise_eic (s : State) (f : FaultRec) : (s.raise f).eic = s.eic := rfl
@[simp] theorem State.raise_handlers (s : State) (f : FaultRec) : (s.raise f).handlers = s.handlers := rfl
@[simp] theorem State.raise_pta (s : State) (f : FaultRec) : (s.raise f).pta = s.pta := rfl
@[simp] theorem State.raise_intc (s : State) (f : FaultRec) : (s.raise f).intc = s.intc := rfl
@[simp] theorem State.raise_dsp (s : State) (f : FaultRec) : (s.raise f).dsp = s.dsp := rfl
@[simp] theorem State.raise_fault (s : State) (f : FaultRec) : (s.raise f).fault = some f := rfl
@[simp] theorem State.raise_main (s : State) (f : FaultRec) : (s.raise f).main = s.main := rfl
@[simp] theorem State.raise_result (s : State) (f : FaultRec) : (s.raise f).result = none := rfl
@[simp] theorem State.raise_draws (s : State) (f : FaultRec) : (s.raise f).draws = s.draws := rfl
@[simp] theorem State.raise_turns (s : State) (f : FaultRec) : (s.raise f).turns = s.turns := rfl

/-! ## resetAll -/

@[simp] theorem State.resetAll_eic (s : State) (i : Chan) :
    s.resetAll.eic.get i = .zero (s.eic.get i).pin := by cases i <;> rfl
@[simp] theorem State.resetAll_handlers (s : State) : s.resetAll.handlers = .both .zero := rfl
@[simp] theorem State.resetAll_pta (s : State) : s.resetAll.pta = .zero := rfl
@[simp] theorem State.resetAll_intc (s : State) : s.resetAll.intc = .zero := rfl
@[simp] theorem State.resetAll_dsp (s : State) : s.resetAll.dsp = .zero := rfl
@[simp] theorem State.resetAll_fault (s : State) : s.resetAll.fault = none := rfl
@[simp] theorem State.resetAll_main (s : State) : s.resetAll.main = .idle := rfl
@[simp] theorem State.resetAll_result (s : State) : s.resetAll.result = none := rfl
@[simp] theorem State.resetAll_draws (s : State) : s.resetAll.draws = s.draws := rfl
@[simp] theorem State.resetAll_turns (s : State) : s.resetAll.turns = s.turns := rfl

end Machine

end Sys2Proof
end

