-- ==== Sys2Proof/Laws/Accumulator.lean ====
section
/-! SUPPORT. What one tick does to the counters (42_tick_accumulator.md R178). -/

namespace Sys2Proof.Machine

/-- Whatever is stored, a running tick leaves every counter within its range (R178 corner case (f)). -/
theorem accumulate_range (c : Counts) :
    (accumulate c).e ≤ 99 ∧ (accumulate c).d ≤ 9 ∧ (accumulate c).s ≤ 59 ∧ (accumulate c).m ≤ 9 := by
  have h : ∀ c : Counts, (rollE c).e ≤ 99 ∧ (rollD c).d ≤ 9 ∧ (rollD c).e = c.e ∧ (rollS c).s ≤ 59 ∧ (rollS c).e = c.e ∧
      (rollS c).d = c.d ∧ (rollM c).m ≤ 9 ∧ (rollM c).e = c.e ∧ (rollM c).d = c.d ∧ (rollM c).s = c.s := by
    intro c
    unfold rollE rollD rollS rollM
    refine ⟨?_, ?_, ?_, ?_, ?_, ?_, ?_, ?_, ?_, ?_⟩ <;> split <;> (try simp only []) <;> omega
  unfold accumulate
  refine ⟨?_, ?_, ?_, (h _).2.2.2.2.2.2.1⟩
  · rw [(h _).2.2.2.2.2.2.2.1, (h _).2.2.2.2.1, (h _).2.2.1]; exact (h _).1
  · rw [(h _).2.2.2.2.2.2.2.2.1, (h _).2.2.2.2.2.1]; exact (h _).2.1
  · rw [(h _).2.2.2.2.2.2.2.2.2]; exact (h _).2.2.2.1

/-- Values in range are stored as they are. -/
theorem store_counts (p : Accumulator) (c : Counts) (he : c.e ≤ 99) (hd : c.d ≤ 9) (hs : c.s ≤ 59) (hm : c.m ≤ 9) :
    (p.store c).counts = c := by
  cases c
  simp only [Accumulator.store, Accumulator.counts, BitVec.toNat_ofNat, Counts.mk.injEq]
  simp only at he hd hs hm
  omega

@[simp] theorem store_start (p : Accumulator) (c : Counts) : (p.store c).start = p.start := rfl

@[simp] theorem store_rstReq (p : Accumulator) (c : Counts) : (p.store c).rstReq = p.rstReq := rfl

/-- The counters after a running tick that serves no request. -/
theorem tickPta_counts (p : Accumulator) (h : p.start = true) (hr : p.rstReq = false) :
    (tickPta p).counts = accumulate p.counts := by
  have hc := accumulate_range p.counts
  simp only [tickPta, tickRun, tickServe, h, if_true, store_rstReq, hr]
  exact store_counts _ _ hc.1 hc.2.1 hc.2.2.1 hc.2.2.2

theorem tickPta_serves (p : Accumulator) (h : p.rstReq = true) : tickPta p = .zero := by
  by_cases hs : p.start <;> simp [tickPta, tickServe, tickRun, h, hs]

theorem tickPta_stopped (p : Accumulator) (hs : p.start = false) (hr : p.rstReq = false) : tickPta p = p := by
  simp [tickPta, tickServe, tickRun, hs, hr]

end Sys2Proof.Machine
end

