-- ==== Sys2Proof/Laws/Decode.lean ====
section
/-! SUPPORT. The fields of a word built from its fields, the address map and its inverse, and that a register's row is the
instruction its address decodes to. -/

namespace Sys2Proof

/-- The bits of a word built from its fields (R80). -/
theorem stimWord_bit (k : BitVec 4) (a d : Byte) (i : Nat) :
    (stimWord k a d).getLsbD i =
      if i < 8 then d.getLsbD i else if i - 8 < 8 then a.getLsbD (i - 8) else k.getLsbD (i - 8 - 8) := by
  rw [← BitVec.getLsbD_append (x := k) (y := a) (i := i - 8)]
  exact BitVec.getLsbD_append (x := k ++ a) (y := d) (i := i)

@[simp] theorem fieldK_stimWord (k : BitVec 4) (a d : Byte) : fieldK (stimWord k a d) = k := by
  apply BitVec.eq_of_getLsbD_eq
  intro i hi
  rw [fieldK, BitVec.getLsbD_extractLsb', stimWord_bit]
  simp [hi, show ¬ 16 + i < 8 by omega, show ¬ 16 + i - 8 < 8 by omega, show 16 + i - 8 - 8 = i by omega]

@[simp] theorem fieldA_stimWord (k : BitVec 4) (a d : Byte) : fieldA (stimWord k a d) = a := by
  apply BitVec.eq_of_getLsbD_eq
  intro i hi
  rw [fieldA, BitVec.getLsbD_extractLsb', stimWord_bit]
  simp [hi]

@[simp] theorem fieldD_stimWord (k : BitVec 4) (a d : Byte) : fieldD (stimWord k a d) = d := by
  apply BitVec.eq_of_getLsbD_eq
  intro i hi
  rw [fieldD, BitVec.getLsbD_extractLsb', stimWord_bit]
  simp [hi]

/-- A word is its three fields. -/
theorem stimWord_fields (w : StimWord) : stimWord (fieldK w) (fieldA w) (fieldD w) = w := by
  apply BitVec.eq_of_getLsbD_eq
  intro i hi
  rw [stimWord_bit, fieldK, fieldA, fieldD, BitVec.getLsbD_extractLsb', BitVec.getLsbD_extractLsb',
    BitVec.getLsbD_extractLsb']
  split
  · simp [*]
  · split
    · simp [*, show 8 + (i - 8) = i by omega]
    · simp [show i - 8 - 8 < 4 by omega, show 16 + (i - 8 - 8) = i by omega]

/-- The address map inverts the addresses. -/
@[simp] theorem Reg.ofAddr_addr (r : Reg) : Reg.ofAddr r.addr = some r := by
  cases r <;> first | rfl | (rename_i i; cases i <;> rfl)

/-- An assigned address is its register's. -/
theorem Reg.addr_of_ofAddr : ∀ (a : Byte) (r : Reg), Reg.ofAddr a = some r → r.addr = a := by
  have h : ∀ a : Byte, ∀ r ∈ Reg.ofAddr a, r.addr = a := by decide +kernel
  intro a r hr
  exact h a r hr

end Sys2Proof
end

