-- ==== Sys2Proof/Laws/Ops.lean ====
section
/-! SUPPORT. What each shared operation can do, said once: a stimulus, a register read or write, the fault it raises, an
agent's turn, and the step. -/

namespace Sys2Proof.Machine

/-! ## A stimulus -/

@[simp] theorem settle_ok (s s' : State) : s.settle (.ok s') = s' := rfl

@[simp] theorem settle_error (s : State) (f : FaultRec) : s.settle (.error f) = s.raise f := rfl

theorem stimulus_healthy {s : State} (h : s.fault = none) (act : State → Except FaultRec State) :
    stimulus s act = .next (s.settle (act (s.setResult none))) := by simp [stimulus, h]

theorem stimulus_faulted {s : State} {f : FaultRec} (h : s.fault = some f) (act : State → Except FaultRec State) :
    stimulus s act = .fault (.halted f) := by simp [stimulus, h]

/-- A stimulus that answers a next state was applied to a machine not faulted, and either its action succeeded or its fault was
raised on the state before. -/
theorem stimulus_next {s t : State} {act : State → Except FaultRec State} (h : stimulus s act = .next t) :
    s.fault = none ∧ (act (s.setResult none) = .ok t ∨ ∃ f, act (s.setResult none) = .error f ∧ t = s.raise f) := by
  unfold stimulus at h
  split at h
  · refine ⟨‹_›, ?_⟩
    cases ha : act (s.setResult none) with
    | ok s' => left; simp [ha] at h; simp [h]
    | error f => right; simp [ha] at h; exact ⟨f, rfl, h.symm⟩
  · cases h

/-! ## Register accesses -/

/-- The access passes the checks of 20_memory.md R61. -/
def allowedRead (r : Reg) (s : State) : Prop := readable r = true ∧ gatedOff r s = false

/-- The access passes the checks of 20_memory.md R61. -/
def allowedWrite (r : Reg) (s : State) : Prop := writable r = true ∧ gatedOff r s = false

theorem regRead_allowed {r : Reg} {s : State} (h : allowedRead r s) : regRead r s = .ok (readReg r s) := by
  simp [regRead, h.1, h.2]

theorem regRead_barred {r : Reg} {s : State} (h : ¬ allowedRead r s) : regRead r s = .error (.busError r.addr .read) := by
  unfold regRead allowedRead at *
  split <;> simp_all

theorem regWrite_allowed {r : Reg} {s : State} (d : Byte) (h : allowedWrite r s) : regWrite r d s = .ok (writeReg r d s) := by
  simp [regWrite, h.1, h.2]

theorem regWrite_barred {r : Reg} {s : State} (d : Byte) (h : ¬ allowedWrite r s) :
    regWrite r d s = .error (.busError r.addr .write) := by
  unfold regWrite allowedWrite at *
  split <;> simp_all

@[simp] theorem gatedOff_setResult (r : Reg) (s : State) (b : Option Byte) : gatedOff r (s.setResult b) = gatedOff r s := by
  cases r <;> rfl

@[simp] theorem allowedRead_setResult (r : Reg) (s : State) (b : Option Byte) :
    allowedRead r (s.setResult b) ↔ allowedRead r s := by simp [allowedRead]

@[simp] theorem allowedWrite_setResult (r : Reg) (s : State) (b : Option Byte) :
    allowedWrite r (s.setResult b) ↔ allowedWrite r s := by simp [allowedWrite]

/-- A permitted `RD` delivers the register's byte. -/
theorem rdStep_allowed {r : Reg} {s : State} (h : s.fault = none) (ha : allowedRead r s) :
    rdStep r s = .next (deliver (readReg r (s.setResult none))) := by
  rw [rdStep, stimulus_healthy h, regRead_allowed ((allowedRead_setResult ..).2 ha)]
  rfl

/-- A barred `RD` raises BusError. -/
theorem rdStep_barred {r : Reg} {s : State} (h : s.fault = none) (ha : ¬ allowedRead r s) :
    rdStep r s = .next (s.raise (.busError r.addr .read)) := by
  rw [rdStep, stimulus_healthy h, regRead_barred (fun hb => ha ((allowedRead_setResult ..).1 hb))]
  rfl

/-- A permitted `WR` does the register's write. -/
theorem wrStep_allowed {r : Reg} {s : State} (d : Byte) (h : s.fault = none) (ha : allowedWrite r s) :
    wrStep r d s = .next (writeReg r d (s.setResult none)) := by
  rw [wrStep, stimulus_healthy h, regWrite_allowed d ((allowedWrite_setResult ..).2 ha)]
  rfl

/-- A barred `WR` raises BusError. -/
theorem wrStep_barred {r : Reg} {s : State} (d : Byte) (h : s.fault = none) (ha : ¬ allowedWrite r s) :
    wrStep r d s = .next (s.raise (.busError r.addr .write)) := by
  rw [wrStep, stimulus_healthy h, regWrite_barred d (fun hb => ha ((allowedWrite_setResult ..).1 hb))]
  rfl

/-- Everything a `RD` that answers a next state can have done. -/
theorem rdStep_next {r : Reg} {s t : State} (h : rdStep r s = .next t) :
    s.fault = none ∧ ((allowedRead r s ∧ t = deliver (readReg r (s.setResult none))) ∨
      (¬ allowedRead r s ∧ t = s.raise (.busError r.addr .read))) := by
  have hf := (stimulus_next h).1
  refine ⟨hf, ?_⟩
  by_cases ha : allowedRead r s
  · rw [rdStep_allowed hf ha] at h
    exact .inl ⟨ha, by injection h with h; exact h.symm⟩
  · rw [rdStep_barred hf ha] at h
    exact .inr ⟨ha, by injection h with h; exact h.symm⟩

/-- Everything a `WR` that answers a next state can have done. -/
theorem wrStep_next {r : Reg} {d : Byte} {s t : State} (h : wrStep r d s = .next t) :
    s.fault = none ∧ ((allowedWrite r s ∧ t = writeReg r d (s.setResult none)) ∨
      (¬ allowedWrite r s ∧ t = s.raise (.busError r.addr .write))) := by
  have hf := (stimulus_next h).1
  refine ⟨hf, ?_⟩
  by_cases ha : allowedWrite r s
  · rw [wrStep_allowed d hf ha] at h
    exact .inl ⟨ha, by injection h with h; exact h.symm⟩
  · rw [wrStep_barred d hf ha] at h
    exact .inr ⟨ha, by injection h with h; exact h.symm⟩

/-! ## What a register access leaves alone -/

/-- What neither a register access nor a callback ever changes: the pins, the handlers, the main line, the counters, the fault,
the schedule. -/
structure SameOutside (s t : State) : Prop where
  pin : ∀ i, (t.eic.get i).pin = (s.eic.get i).pin
  handlers : t.handlers = s.handlers
  main : t.main = s.main
  msElapsed : t.pta.msElapsed = s.pta.msElapsed
  milliseconds : t.pta.milliseconds = s.pta.milliseconds
  seconds : t.pta.seconds = s.pta.seconds
  minutes : t.pta.minutes = s.pta.minutes
  fault : t.fault = s.fault
  turns : t.turns = s.turns
  enables : ∀ b, s.intc.en.getLsbD b = true → t.intc.en.getLsbD b = true

theorem SameOutside.refl (s : State) : SameOutside s s :=
  ⟨fun _ => rfl, rfl, rfl, rfl, rfl, rfl, rfl, rfl, rfl, fun _ h => h⟩

theorem SameOutside.trans {s t u : State} (h : SameOutside s t) (k : SameOutside t u) : SameOutside s u :=
  ⟨fun i => (k.pin i).trans (h.pin i), k.handlers.trans h.handlers, k.main.trans h.main, k.msElapsed.trans h.msElapsed,
    k.milliseconds.trans h.milliseconds, k.seconds.trans h.seconds, k.minutes.trans h.minutes, k.fault.trans h.fault,
    k.turns.trans h.turns, fun b hb => k.enables b (h.enables b hb)⟩

/-- A channel update that keeps the pins keeps everything outside. -/
theorem sameOutside_updEic (s : State) (i : Chan) (f : Channel → Channel) (hf : ∀ c, (f c).pin = c.pin) :
    SameOutside s (s.updEic i f) := by
  refine ⟨fun j => ?_, rfl, rfl, rfl, rfl, rfl, rfl, rfl, rfl, fun _ h => h⟩
  rw [State.updEic_eic, PerChan.get_set]
  split
  · subst_vars; exact hf _
  · rfl

theorem sameOutside_afterDraw {s t : State} (w : DrawSite) (h : SameOutside s t) : SameOutside s (t.afterDraw w) :=
  ⟨h.pin, h.handlers, h.main, h.msElapsed, h.milliseconds, h.seconds, h.minutes, h.fault, h.turns, h.enables⟩

theorem sameOutside_updDsp (s : State) (f : Dsp → Dsp) : SameOutside s (s.updDsp f) :=
  ⟨fun _ => rfl, rfl, rfl, rfl, rfl, rfl, rfl, rfl, rfl, fun _ h => h⟩

theorem writeReg_sameOutside (r : Reg) (d : Byte) (s : State) : SameOutside s (writeReg r d s) := by
  cases r
  case dir | afsel | den | sense | ibe | iev =>
    apply sameOutside_afterDraw
    apply sameOutside_updEic
    intro c; rfl
  case pull | icr | im | clken =>
    unfold writeReg
    apply sameOutside_updEic
    intro c; rfl
  case start | rstreq => exact ⟨fun _ => rfl, rfl, rfl, rfl, rfl, rfl, rfl, rfl, rfl, fun _ h => h⟩
  case seten =>
    exact ⟨fun _ => rfl, rfl, rfl, rfl, rfl, rfl, rfl, rfl, rfl, fun b hb => by simp [writeReg, hb]⟩
  case pri => exact ⟨fun _ => rfl, rfl, rfl, rfl, rfl, rfl, rfl, rfl, rfl, fun _ h => h⟩
  all_goals exact .refl s

/-- A read changes at most the count of the draws. -/
theorem readReg_state (r : Reg) (s : State) : (readReg r s).2 = s ∨ ∃ w, (readReg r s).2 = s.afterDraw w := by
  cases r <;> first | exact .inl rfl | exact .inr ⟨_, rfl⟩

theorem memRead_sameOutside {a : Byte} {s : State} {q : Byte × State} (h : memRead a s = .ok q) : SameOutside s q.2 := by
  unfold memRead at h
  split at h
  · rename_i r _
    by_cases ha : allowedRead r s
    · rw [regRead_allowed ha] at h
      injection h with h
      subst h
      rcases readReg_state r s with e | ⟨w, e⟩ <;> rw [e]
      · exact .refl s
      · exact sameOutside_afterDraw _ (.refl s)
    · rw [regRead_barred ha] at h; cases h
  · cases h

theorem memWrite_sameOutside {a d : Byte} {s t : State} (h : memWrite a d s = .ok t) : SameOutside s t := by
  unfold memWrite at h
  split at h
  · rename_i r _
    by_cases ha : allowedWrite r s
    · rw [regWrite_allowed d ha] at h
      injection h with h
      subst h
      exact writeReg_sameOutside r d s
    · rw [regWrite_barred d ha] at h; cases h
  · cases h

/-- A register access faults only with a BusError. -/
theorem memRead_error {a : Byte} {s : State} {f : FaultRec} (h : memRead a s = .error f) :
    f = .busError a .read := by
  unfold memRead at h
  split at h
  · rename_i r hr
    by_cases ha : allowedRead r s
    · rw [regRead_allowed ha] at h; cases h
    · rw [regRead_barred ha] at h
      injection h with h
      rw [← h, Reg.addr_of_ofAddr a r hr]
  · injection h with h; exact h.symm

theorem memWrite_error {a d : Byte} {s : State} {f : FaultRec} (h : memWrite a d s = .error f) :
    f = .busError a .write := by
  unfold memWrite at h
  split at h
  · rename_i r hr
    by_cases ha : allowedWrite r s
    · rw [regWrite_allowed d ha] at h; cases h
    · rw [regWrite_barred d ha] at h
      injection h with h
      rw [← h, Reg.addr_of_ofAddr a r hr]
  · injection h with h; exact h.symm

/-! ## Flags -/

@[simp] theorem pick_bit (m x y : Byte) (b : Nat) (hb : b < 8) :
    (pick m x y).getLsbD b = if m.getLsbD b then x.getLsbD b else y.getLsbD b := by
  simp only [pick, BitVec.getLsbD_or, BitVec.getLsbD_and, BitVec.getLsbD_not, hb, decide_true, Bool.true_and]
  cases m.getLsbD b <;> simp

/-! ## The step -/

/-- In a state with no fault every stimulus has a step (00_scope.md R12). -/
theorem stimulus_has_step {s : State} (h : s.fault = none) (act : State → Except FaultRec State) :
    ∃ t, stimulus s act = .next t := ⟨_, stimulus_healthy h act⟩

theorem passTurn_faulted {s : State} {f : FaultRec} (h : s.fault = some f) : passTurn s = .fault (.halted f) := by
  simp [passTurn, h]

theorem step_nil {s : State} (h : s.turns = []) : stepState s = .next s := by simp [stepState, h]

theorem step_cons {s : State} {t : Turn} {rest : List Turn} (h : s.turns = t :: rest) :
    stepState s = passOver { s with turns := rest } (takeTurn Config.params t { s with turns := rest }) := by
  simp [stepState, h]

@[simp] theorem passOver_next (s t : State) : passOver s (.next t) = .next t := rfl

@[simp] theorem passOver_fault (s : State) (f : Fault) : passOver s (.fault f) = .next s := by cases f; rfl

@[simp] theorem passOver_refused (s : State) (r : Refusal) : passOver s (.refused r) = .refused r := rfl

/-- Passing over changes nothing but a stop in a faulted state. -/
theorem passOver_eq_next {s t : State} {o : Host.Outcome State Fault Refusal} (h : passOver s o = .next t) :
    o = .next t ∨ ((∃ f, o = .fault f) ∧ t = s) := by
  cases o with
  | next u => exact .inl h
  | fault f => rw [passOver_fault] at h; injection h with h; exact .inr ⟨⟨f, rfl⟩, h.symm⟩
  | refused r => cases h

/-- Everything a step that takes an entry off the schedule and answers a next state can have done: the entry's own doing, or,
where it has no step, nothing else. -/
theorem step_cons_next {s t : State} {u : Turn} {rest : List Turn} (h : s.turns = u :: rest) (hs : stepState s = .next t) :
    takeTurn Config.params u { s with turns := rest } = .next t ∨
      ((∃ f, takeTurn Config.params u { s with turns := rest } = .fault f) ∧ t = { s with turns := rest }) :=
  passOver_eq_next (step_cons h ▸ hs)

/-- Everything an agent's turn that answers a next state can have done. -/
theorem agentTurn_next {may : Bool} {k : Instr} {after : State → State} {s t : State}
    (h : agentTurn may k after s = .next t) :
    (may = false ∧ s.fault = none ∧ t = s) ∨
      (may = true ∧ ∃ u, exec k s = .next u ∧ t = if u.fault = none then after u else u) := by
  unfold agentTurn at h
  split at h
  · right
    refine ⟨‹_›, ?_⟩
    unfold issue at h
    split at h
    · injection h with h; exact ⟨_, ‹_›, h.symm⟩
    · cases h
    · cases h
  · left
    unfold passTurn at h
    split at h
    · injection h with h; exact ⟨by simp_all, ‹_›, h.symm⟩
    · cases h

theorem agentTurn_passes {k : Instr} {after : State → State} {s : State} (h : s.fault = none) :
    agentTurn false k after s = .next s := by simp [agentTurn, passTurn, h]

theorem agentTurn_issues {k : Instr} {after : State → State} {s u : State} (h : exec k s = .next u)
    (hu : u.fault = none) : agentTurn true k after s = .next (after u) := by simp [agentTurn, issue, h, hu]

end Sys2Proof.Machine
end

