-- ==== Sys2Proof/Laws/Dispatcher.lean ====
section
/-! SUPPORT. What a callback can do (43_dispatcher.md R190 to R194). -/

namespace Sys2Proof.Machine

theorem countDisplay_sameOutside (f : Byte → Byte) (s : State) : SameOutside s (countDisplay f s) := by
  unfold countDisplay
  split
  · exact sameOutside_updDsp _ _
  · exact sameOutside_afterDraw _ (sameOutside_updDsp _ _)

/-- Counting keeps the display counter in 0..15. -/
theorem countDisplay_range {f : Byte → Byte} {s : State} (h : s.dsp.displayCounter.toNat ≤ 15)
    (hf : ∀ c : Byte, c.toNat ≤ 15 → (f c).toNat ≤ 15) : (countDisplay f s).dsp.displayCounter.toNat ≤ 15 := by
  unfold countDisplay
  rw [if_pos h]
  exact hf _ h

theorem incDisplay_range : ∀ c : Byte, c.toNat ≤ 15 → (incDisplay c).toNat ≤ 15 := by decide +kernel

theorem decDisplay_range : ∀ c : Byte, c.toNat ≤ 15 → (decDisplay c).toNat ≤ 15 := by decide +kernel

theorem dispatch2_sameOutside (p : Params) (st : Byte) (s : State) : SameOutside s (dispatch2 p st s) := by
  unfold dispatch2
  split
  · exact countDisplay_sameOutside _ _
  · split
    · exact countDisplay_sameOutside _ _
    · exact .refl s

theorem dispatch4_sameOutside (p : Params) (st : Byte) (s : State) : SameOutside s (dispatch4 p st s) := by
  unfold dispatch4
  split
  · exact sameOutside_updDsp _ _
  · exact .refl s

theorem runEffect_sameOutside {e : Effect} {s t : State} (h : runEffect e s = .ok t) : SameOutside s t := by
  cases e with
  | setDisplay v => injection h with h; subst h; exact sameOutside_updDsp _ _
  | setLed v => injection h with h; subst h; exact sameOutside_updDsp _ _
  | rd a =>
    simp only [runEffect] at h
    cases hq : memRead a s with
    | ok q => rw [hq] at h; injection h with h; subst h; exact memRead_sameOutside hq
    | error f => rw [hq] at h; cases h
  | wr a d => exact memWrite_sameOutside h

/-- An effect faults only with a BusError. -/
theorem runEffect_error {e : Effect} {s : State} {f : FaultRec} (h : runEffect e s = .error f) :
    ∃ a dir, f = .busError a dir := by
  cases e with
  | setDisplay v => cases h
  | setLed v => cases h
  | rd a =>
    simp only [runEffect] at h
    cases hq : memRead a s with
    | ok q => rw [hq] at h; cases h
    | error g => rw [hq] at h; injection h with h; exact ⟨a, .read, h ▸ memRead_error hq⟩
  | wr a d => exact ⟨a, .write, memWrite_error h⟩

/-- What holds of each effect holds of a list of them. -/
theorem runEffects_induct {P : State → State → Prop} (hr : ∀ s, P s s) (ht : ∀ s t u, P s t → P t u → P s u)
    (he : ∀ e s t, runEffect e s = .ok t → P s t) :
    ∀ (es : List Effect) (s t : State), runEffects es s = .ok t → P s t := by
  intro es
  induction es with
  | nil => intro s t h; injection h with h; subst h; exact hr s
  | cons e es ih =>
    intro s t h
    unfold runEffects at h
    split at h
    · exact ht _ _ _ (he _ _ _ ‹_›) (ih _ _ h)
    · cases h

theorem runEffects_error : ∀ (es : List Effect) (s : State) (f : FaultRec), runEffects es s = .error f →
    ∃ a dir, f = .busError a dir := by
  intro es
  induction es with
  | nil => intro s f h; cases h
  | cons e es ih =>
    intro s f h
    unfold runEffects at h
    split at h
    · exact ih _ _ h
    · injection h with h; subst h; exact runEffect_error ‹_›

/-- Whatever callback runs, it keeps everything outside the registers, the flags and the dispatcher's state. -/
theorem callbackRun_sameOutside {p : Params} {i : Chan} {c st : Byte} {s t : State} (h : callbackRun p i c st s = .ok t) :
    SameOutside s t := by
  unfold callbackRun at h
  split at h
  · cases h
  · injection h with h; subst h; exact dispatch2_sameOutside p st s
  · injection h with h; subst h; exact dispatch4_sameOutside p st s
  · exact runEffects_induct .refl (fun _ _ _ => .trans) (fun _ _ _ => runEffect_sameOutside) _ _ _ h

theorem callSlot_sameOutside {p : Params} {i : Chan} {st : Byte} {s t : State} (h : callSlot p i st s = .ok t) :
    SameOutside s t := by
  unfold callSlot at h
  split at h
  · cases h
  · exact callbackRun_sameOutside h

/-- A `CALL` faults with InvalidCallback or BusError. -/
theorem callSlot_error {p : Params} {i : Chan} {st : Byte} {s : State} {f : FaultRec} (h : callSlot p i st s = .error f) :
    f = .invalidCallback i ∨ ∃ a dir, f = .busError a dir := by
  unfold callSlot callbackRun at h
  split at h
  · injection h with h; exact .inl h.symm
  · split at h
    · injection h with h; exact .inl h.symm
    · cases h
    · cases h
    · exact .inr (runEffects_error _ _ _ h)

end Sys2Proof.Machine
end

