-- ==== Sys2Proof/Laws/Exec.lean ====
section
/-! SUPPORT. Every stimulus is a register read, a register write, or one of the five others: said once, so that a claim over all
stimuli is a claim over seven shapes. -/

namespace Sys2Proof.Machine

/-- What a stimulus is, as an operation on the state. -/
inductive Shape (k : Instr) : Prop where
  | read (r : Reg) (hr : readable r = true) (h : ∀ s, exec k s = rdStep r s)
  | write (r : Reg) (d : Byte) (hr : writable r = true) (h : ∀ s, exec k s = wrStep r d s)
  | pin (i : Chan) (p : Byte) (e : k = .pin i p) (h : ∀ s, exec k s = stimulus s (fun s => .ok (pinEvent i p s)))
  | tick (e : k = .tick) (h : ∀ s, exec k s = stimulus s (fun s => .ok (s.updPta tickPta)))
  | reset (e : k = .reset) (h : ∀ s, exec k s = .next s.resetAll)
  | setcb (i : Chan) (c : Byte) (e : k = .setcb i c) (h : ∀ s, exec k s = stimulus s (registerCallback Config.params i c))
  | call (i : Chan) (st : Byte) (e : k = .call i st) (h : ∀ s, exec k s = stimulus s (callSlot Config.params i st))

theorem exec_shape (k : Instr) : Shape k := by
  cases k
  case pin i p => exact .pin i p rfl fun _ => rfl
  case tick => exact .tick rfl fun _ => rfl
  case reset => exact .reset rfl fun _ => rfl
  case setcb i c => exact .setcb i c rfl fun _ => rfl
  case call i st => exact .call i st rfl fun _ => rfl
  all_goals first | exact .read _ rfl fun _ => rfl | exact .write _ _ rfl fun _ => rfl

theorem exec_pin (i : Chan) (p : Byte) (s : State) :
    exec (.pin i p) s = stimulus s (fun s => .ok (pinEvent i p s)) := rfl

theorem exec_tick (s : State) : exec .tick s = stimulus s (fun s => .ok (s.updPta tickPta)) := rfl

theorem exec_reset (s : State) : exec .reset s = .next s.resetAll := rfl

theorem exec_setcb (i : Chan) (c : Byte) (s : State) :
    exec (.setcb i c) s = stimulus s (registerCallback Config.params i c) := rfl

theorem exec_call (i : Chan) (st : Byte) (s : State) :
    exec (.call i st) s = stimulus s (callSlot Config.params i st) := rfl

/-- A registration that succeeds writes its slot and nothing else. -/
theorem registerCallback_ok {p : Params} {i : Chan} {c : Byte} {s t : State} (h : registerCallback p i c s = .ok t) :
    t = s.setSlot i (slotOf c) := by
  unfold registerCallback at h
  split at h
  · cases h
  · injection h with h; exact h.symm

theorem registerCallback_error {p : Params} {i : Chan} {c : Byte} {s : State} {f : FaultRec}
    (h : registerCallback p i c s = .error f) : f = .invalidCallback i := by
  unfold registerCallback at h
  split at h
  · injection h with h; exact h.symm
  · cases h

/-- The null identifier is never stored. -/
theorem slotOf_ne_zero (c : Byte) : slotOf c ≠ some 0#8 := by
  unfold slotOf
  split
  · simp
  · simpa using ‹¬ _›

end Sys2Proof.Machine
end

