-- ==== Sys2Proof/Laws/Agents.lean ====
section
/-! SUPPORT. What a stimulus does to the agents' positions, and what each kind of turn can do, said once. -/

namespace Sys2Proof.Machine

/-- A stimulus other than `RESET` moves no agent and takes no turn off the schedule. -/
theorem exec_keeps_agents {k : Instr} {s t : State} (h : exec k s = .next t) (hk : k ≠ .reset) :
    (∀ j, (t.handlers.get j).phase = (s.handlers.get j).phase) ∧ t.main = s.main ∧ t.turns = s.turns := by
  cases exec_shape k with
  | read r hr e =>
    rw [e] at h
    obtain ⟨-, ⟨-, rfl⟩ | ⟨-, rfl⟩⟩ := rdStep_next h
    · rcases readReg_state r (s.setResult none) with e | ⟨w, e⟩ <;> simp [deliver, e]
    · simp
  | write r d hr e =>
    rw [e] at h
    obtain ⟨-, ⟨-, rfl⟩ | ⟨-, rfl⟩⟩ := wrStep_next h
    · have o := writeReg_sameOutside r d (s.setResult none)
      exact ⟨fun j => by rw [o.handlers]; rfl, o.main, o.turns⟩
    · simp
  | pin i p _ e =>
    rw [e] at h
    obtain ⟨-, h | ⟨f, h, -⟩⟩ := stimulus_next h
    · injection h with h; subst h; simp [pinEvent]
    · cases h
  | tick _ e =>
    rw [e] at h
    obtain ⟨-, h | ⟨f, h, -⟩⟩ := stimulus_next h
    · injection h with h; subst h; simp
    · cases h
  | reset e => exact absurd e hk
  | setcb i c _ e =>
    rw [e] at h
    obtain ⟨-, h | ⟨f, -, rfl⟩⟩ := stimulus_next h
    · rw [registerCallback_ok h]
      refine ⟨fun j => ?_, rfl, rfl⟩
      cases i <;> cases j <;> rfl
    · simp
  | call i st _ e =>
    rw [e] at h
    obtain ⟨-, h | ⟨f, -, rfl⟩⟩ := stimulus_next h
    · have o := callSlot_sameOutside h
      exact ⟨fun j => by rw [o.handlers]; rfl, o.main, o.turns⟩
    · simp

/-- A read that succeeds delivers its byte. -/
theorem memRead_deliver {a : Byte} {s t : State} (h : (memRead a s).map deliver = .ok t) :
    ∃ q, memRead a s = .ok q ∧ t = deliver q := by
  cases hq : memRead a s with
  | error f => rw [hq] at h; cases h
  | ok q => rw [hq] at h; injection h with h; exact ⟨q, rfl, h.symm⟩

/-- Everything a presented word that answers a next state can have done. -/
theorem presentWord_next {w : StimWord} {s t : State} (h : presentWord w s = .next t) :
    (∃ i, decode w = .instr i ∧ exec i s = .next t) ∨
    (∃ a, decode w = .badRead a ∧ stimulus s (fun s => (memRead a s).map deliver) = .next t) ∨
    (∃ a d, decode w = .badWrite a d ∧ stimulus s (memWrite a d) = .next t) := by
  unfold presentWord at h
  split at h
  · exact .inl ⟨_, ‹_›, h⟩
  · exact .inr (.inl ⟨_, ‹_›, h⟩)
  · exact .inr (.inr ⟨_, _, ‹_›, h⟩)
  · cases h

/-- The bar of R214 as claims state it. -/
theorem handlerFree_iff {i : Chan} {s : State} : handlerFree Config.params i s = true ↔ Safety.Unbarred i s := by
  simp [handlerFree, Safety.Unbarred]

theorem passTurn_healthy {s : State} (h : s.fault = none) : passTurn s = .next s := by simp [passTurn, h]

theorem passTurn_next {s t : State} (h : passTurn s = .next t) : s.fault = none ∧ t = s := by
  unfold passTurn at h
  split at h
  · injection h with h; exact ⟨‹_›, h.symm⟩
  · cases h

/-- Everything the start of an invocation that answers a next state can have done. -/
theorem handlerStart_next {p : Params} {i : Chan} {s t : State} (h : handlerStart p i s = .next t) :
    s.fault = none ∧ ((line s i = true ∧ handlerFree p i s = true ∧ t = s.setPhase i .entered) ∨ t = s) := by
  unfold handlerStart at h
  obtain ⟨hf, rfl⟩ := passTurn_next h
  split at hf <;> rename_i hc
  · rw [Bool.and_eq_true] at hc
    exact ⟨hf, .inl ⟨hc.1, hc.2, by rw [if_pos (by simp [hc])]⟩⟩
  · exact ⟨hf, .inr (by rw [if_neg hc])⟩

/-- Only an idle handler has no stimulus to issue. -/
theorem handlerInstr_none {p : Params} {i : Chan} {ph : Phase} : handlerInstr p i ph = none ↔ ph = .idle := by
  cases ph <;> simp [handlerInstr]

/-- Everything a turn of H[i] that answers a next state can have done: it passed, it started an invocation, or it issued the
next stimulus of the one it had started. -/
theorem handlerTurn_next {p : Params} {i : Chan} {s t : State} (h : handlerTurn p i s = .next t) :
    (s.fault = none ∧ t = s) ∨
    (s.fault = none ∧ (s.handlers.get i).phase = .idle ∧ line s i = true ∧ handlerFree p i s = true ∧
      t = s.setPhase i .entered) ∨
    (handlerFree p i s = true ∧ ∃ k u, handlerInstr p i (s.handlers.get i).phase = some k ∧ exec k s = .next u ∧
      t = if u.fault = none then u.setPhase i (handlerNext p i u.received (s.handlers.get i).phase) else u) := by
  unfold handlerTurn at h
  split at h
  · obtain ⟨hf, ⟨hl, hn, rfl⟩ | rfl⟩ := handlerStart_next h
    · exact .inr (.inl ⟨hf, handlerInstr_none.1 ‹_›, hl, hn, rfl⟩)
    · exact .inl ⟨hf, rfl⟩
  · obtain ⟨-, hf, rfl⟩ | ⟨hn, u, hu, rfl⟩ := agentTurn_next h
    · exact .inl ⟨hf, rfl⟩
    · exact .inr (.inr ⟨hn, _, u, ‹_›, hu, rfl⟩)

/-- A handler's stimulus is never `RESET`. -/
theorem handlerInstr_ne_reset {p : Params} {i : Chan} {ph : Phase} {k : Instr} (h : handlerInstr p i ph = some k) :
    k ≠ .reset := by
  cases ph <;> cases h <;> exact fun e => by cases e

/-- A stimulus of `INIT` is never `RESET`. -/
theorem initInstr_ne_reset {p : Params} {i : Chan} {c t : Byte} {n : Nat} {k : Instr}
    (h : initInstr p i c t n = some k) : k ≠ .reset := by
  unfold initInstr at h
  split at h <;> cases h <;> exact fun e => by cases e

/-- `INIT` has 21 stimuli. -/
theorem initInstr_lt {p : Params} {i : Chan} {c t : Byte} {n : Nat} {k : Instr}
    (h : initInstr p i c t n = some k) : n < 21 := by
  unfold initInstr at h
  split at h <;> first | omega | cases h

/-- Everything a turn of the main line in an `INIT` that answers a next state can have done. -/
theorem mainTurn_next {p : Params} {s t : State} (h : mainTurn p s = .next t) :
    (s.fault = none ∧ t = s) ∨
    (mainMay s = true ∧ ∃ i c n b k u, s.main = .init i c n b ∧ initInstr p i c b n = some k ∧ exec k s = .next u ∧
      t = if u.fault = none then initNext i c n b u else u) := by
  unfold mainTurn at h
  split at h
  · exact .inl (passTurn_next h)
  · split at h
    · obtain ⟨-, hf, rfl⟩ | ⟨hm, u, hu, rfl⟩ := agentTurn_next h
      · exact .inl ⟨hf, rfl⟩
      · exact .inr ⟨hm, _, _, _, _, _, u, ‹_›, ‹_›, hu, rfl⟩
    · exact .inl (passTurn_next h)

/-! ## A faulted machine -/

/-- Every stimulus but `RESET` stops in a faulted state. -/
theorem exec_faulted {k : Instr} {s : State} {f : FaultRec} (h : s.fault = some f) (hk : k ≠ .reset) :
    exec k s = .fault (.halted f) := by
  cases exec_shape k with
  | read r _ e => rw [e]; exact stimulus_faulted h _
  | write r d _ e => rw [e]; exact stimulus_faulted h _
  | pin i p _ e => rw [e]; exact stimulus_faulted h _
  | tick _ e => rw [e]; exact stimulus_faulted h _
  | reset e => exact absurd e hk
  | setcb i c _ e => rw [e]; exact stimulus_faulted h _
  | call i st _ e => rw [e]; exact stimulus_faulted h _

/-- Every agent's turn stops in a faulted state. -/
theorem agentTurn_faulted {may : Bool} {k : Instr} {after : State → State} {s : State} {f : FaultRec}
    (h : s.fault = some f) (hk : k ≠ .reset) : agentTurn may k after s = .fault (.halted f) := by
  cases may
  · exact passTurn_faulted h
  · simp [agentTurn, issue, exec_faulted h hk]

theorem handlerTurn_faulted {p : Params} {i : Chan} {s : State} {f : FaultRec} (h : s.fault = some f) :
    handlerTurn p i s = .fault (.halted f) := by
  unfold handlerTurn
  split
  · unfold handlerStart
    apply passTurn_faulted
    split <;> exact h
  · exact agentTurn_faulted h (handlerInstr_ne_reset ‹_›)

theorem mainTurn_faulted {p : Params} {s : State} {f : FaultRec} (h : s.fault = some f) :
    mainTurn p s = .fault (.halted f) := by
  unfold mainTurn
  split
  · exact passTurn_faulted h
  · split
    · exact agentTurn_faulted h (initInstr_ne_reset ‹_›)
    · exact passTurn_faulted h

end Sys2Proof.Machine
end

