-- ==== Sys2Proof/Laws/Config.lean ====
section
/-! SUPPORT. What R8 says of the parameters of the machine, whatever they are. -/

namespace Sys2Proof

/-- The parameters meet every constraint of 00_scope.md R8. -/
theorem Config.params_ok : Config.params.ok = true := by
  unfold Config.params
  split
  · assumption
  · decide

theorem Params.ok_iff (p : Params) : p.ok = true ↔
    (popcount p.mask.c0 = 2 ∧ popcount p.mask.c1 = 4) ∧
      (popcount p.codeInc = 1 ∧ popcount p.codeDec = 1 ∧ popcount p.codeToggle = 1) ∧ p.codeInc ≠ p.codeDec := by
  simp [Params.ok, Params.masksOk, Params.codesOneBit, Params.codesDiffer, and_assoc]

theorem Config.codeInc_one_bit : popcount Config.params.codeInc = 1 := ((Params.ok_iff _).1 params_ok).2.1.1

theorem Config.codeDec_one_bit : popcount Config.params.codeDec = 1 := ((Params.ok_iff _).1 params_ok).2.1.2.1

theorem Config.codeToggle_one_bit : popcount Config.params.codeToggle = 1 := ((Params.ok_iff _).1 params_ok).2.1.2.2

theorem Config.codes_differ : Config.params.codeInc ≠ Config.params.codeDec := ((Params.ok_iff _).1 params_ok).2.2

/-- A channel monitors some pin. -/
theorem Config.mask_ne_zero (i : Chan) : Config.params.mask.get i ≠ 0#8 := by
  have h := ((Params.ok_iff _).1 params_ok).1
  cases i
  · intro h0
    rw [show Config.params.mask.c0 = 0#8 from h0] at h
    exact absurd h.1 (by decide)
  · intro h0
    rw [show Config.params.mask.c1 = 0#8 from h0] at h
    exact absurd h.2 (by decide)

end Sys2Proof
end

