-- ==== Sys2Proof/Laws/Flags.lean ====
section
/-! SUPPORT. The flag computations bit by bit, in the terms claims use (10_state.md R35, R30; 41_edge_channel_operation.md
R140). -/

namespace Sys2Proof.Machine

open Sys2Proof.Safety

theorem digIn_bit (c : Channel) {b : Nat} (hb : b < 8) : (digIn c).getLsbD b = true ↔ digInAt c b := by
  unfold digIn digInAt bit
  cases c.clken <;> simp [hb, and_assoc]

theorem riseCfg_bit (c : Channel) {b : Nat} (hb : b < 8) : (riseCfg c).getLsbD b = true ↔ riseCfgAt c b := by
  unfold riseCfg riseCfgAt bit
  simp [hb, and_assoc]

theorem armed_bit (c : Channel) {b : Nat} (hb : b < 8) : (armed c).getLsbD b = true ↔ armedAt c b := by
  unfold armed armedAt
  rw [BitVec.getLsbD_and, Bool.and_eq_true, digIn_bit c hb, riseCfg_bit c hb]

/-- The flag of an armed pin after a pin event. -/
theorem risAfterPin_armed (c : Channel) (p x : Byte) {b : Nat} (hb : b < 8) (h : armedAt c b) :
    (risAfterPin c p x).getLsbD b = (c.ris.getLsbD b || (!c.pin.getLsbD b && p.getLsbD b)) := by
  rw [risAfterPin, pick_bit _ _ _ b hb, if_pos ((armed_bit c hb).2 h)]
  simp [rising, hb]

/-- The flag of a pin not armed after a pin event is the drawn bit. -/
theorem risAfterPin_unarmed (c : Channel) (p x : Byte) {b : Nat} (hb : b < 8) (h : ¬ armedAt c b) :
    (risAfterPin c p x).getLsbD b = x.getLsbD b := by
  rw [risAfterPin, pick_bit _ _ _ b hb, if_neg (fun e => h ((armed_bit c hb).1 e))]

/-- A configuration write redraws the flags whose bit changes and keeps the others. -/
theorem risAfterConfig_bit (r old d x : Byte) {b : Nat} (hb : b < 8) :
    (risAfterConfig r (old ^^^ d) x).getLsbD b =
      if d.getLsbD b = old.getLsbD b then r.getLsbD b else x.getLsbD b := by
  rw [risAfterConfig, pick_bit _ _ _ b hb, BitVec.getLsbD_xor]
  cases old.getLsbD b <;> cases d.getLsbD b <;> simp

theorem risAfterAck_bit (r d : Byte) {b : Nat} (hb : b < 8) :
    (risAfterAck r d).getLsbD b = (r.getLsbD b && !d.getLsbD b) := by
  simp [risAfterAck, hb]

end Sys2Proof.Machine
end

