-- ==== Sys2Proof/Laws/PerInstr.lean ====
section
/-! SUPPORT. Statements made for each constructor of `Instr`: the encoded word lies in the instruction's row of the opcode
table (30_encoding.md R93). -/

namespace Sys2Proof.Laws.EncodingRow

/-- The word of the instruction matches its row, and the row is one of the table's. -/
def Statement (i : Instr) : Prop := i.row.has (encode i) = true ∧ i.row ∈ opcodeRows

theorem rdData (i : Chan) : Statement (.rdData i) :=
  ⟨by cases i <;> decide, by simp only [Instr.row]; decide⟩

theorem rdDir (i : Chan) : Statement (.rdDir i) :=
  ⟨by cases i <;> decide, by simp only [Instr.row]; decide⟩

theorem wrDir (i : Chan) (d : Byte) : Statement (.wrDir i d) :=
  ⟨by cases i <;> revert d <;> decide +kernel, by simp only [Instr.row]; decide⟩

theorem rdAfsel (i : Chan) : Statement (.rdAfsel i) :=
  ⟨by cases i <;> decide, by simp only [Instr.row]; decide⟩

theorem wrAfsel (i : Chan) (d : Byte) : Statement (.wrAfsel i d) :=
  ⟨by cases i <;> revert d <;> decide +kernel, by simp only [Instr.row]; decide⟩

theorem rdDen (i : Chan) : Statement (.rdDen i) :=
  ⟨by cases i <;> decide, by simp only [Instr.row]; decide⟩

theorem wrDen (i : Chan) (d : Byte) : Statement (.wrDen i d) :=
  ⟨by cases i <;> revert d <;> decide +kernel, by simp only [Instr.row]; decide⟩

theorem rdPull (i : Chan) : Statement (.rdPull i) :=
  ⟨by cases i <;> decide, by simp only [Instr.row]; decide⟩

theorem wrPull (i : Chan) (d : Byte) : Statement (.wrPull i d) :=
  ⟨by cases i <;> revert d <;> decide +kernel, by simp only [Instr.row]; decide⟩

theorem rdIs (i : Chan) : Statement (.rdIs i) :=
  ⟨by cases i <;> decide, by simp only [Instr.row]; decide⟩

theorem wrIs (i : Chan) (d : Byte) : Statement (.wrIs i d) :=
  ⟨by cases i <;> revert d <;> decide +kernel, by simp only [Instr.row]; decide⟩

theorem rdIbe (i : Chan) : Statement (.rdIbe i) :=
  ⟨by cases i <;> decide, by simp only [Instr.row]; decide⟩

theorem wrIbe (i : Chan) (d : Byte) : Statement (.wrIbe i d) :=
  ⟨by cases i <;> revert d <;> decide +kernel, by simp only [Instr.row]; decide⟩

theorem rdIev (i : Chan) : Statement (.rdIev i) :=
  ⟨by cases i <;> decide, by simp only [Instr.row]; decide⟩

theorem wrIev (i : Chan) (d : Byte) : Statement (.wrIev i d) :=
  ⟨by cases i <;> revert d <;> decide +kernel, by simp only [Instr.row]; decide⟩

theorem rdRis (i : Chan) : Statement (.rdRis i) :=
  ⟨by cases i <;> decide, by simp only [Instr.row]; decide⟩

theorem rdMis (i : Chan) : Statement (.rdMis i) :=
  ⟨by cases i <;> decide, by simp only [Instr.row]; decide⟩

theorem wrIcr (i : Chan) (d : Byte) : Statement (.wrIcr i d) :=
  ⟨by cases i <;> revert d <;> decide +kernel, by simp only [Instr.row]; decide⟩

theorem rdIm (i : Chan) : Statement (.rdIm i) :=
  ⟨by cases i <;> decide, by simp only [Instr.row]; decide⟩

theorem wrIm (i : Chan) (d : Byte) : Statement (.wrIm i d) :=
  ⟨by cases i <;> revert d <;> decide +kernel, by simp only [Instr.row]; decide⟩

theorem rdClken (i : Chan) : Statement (.rdClken i) :=
  ⟨by cases i <;> decide, by simp only [Instr.row]; decide⟩

theorem wrClken (i : Chan) (d : Byte) : Statement (.wrClken i d) :=
  ⟨by cases i <;> revert d <;> decide +kernel, by simp only [Instr.row]; decide⟩

theorem rdStart : Statement .rdStart :=
  ⟨by decide, by simp only [Instr.row]; decide⟩

theorem wrStart (d : Byte) : Statement (.wrStart d) :=
  ⟨by revert d; decide +kernel, by simp only [Instr.row]; decide⟩

theorem rdRstreq : Statement .rdRstreq :=
  ⟨by decide, by simp only [Instr.row]; decide⟩

theorem wrRstreq (d : Byte) : Statement (.wrRstreq d) :=
  ⟨by revert d; decide +kernel, by simp only [Instr.row]; decide⟩

theorem rdMsel : Statement .rdMsel :=
  ⟨by decide, by simp only [Instr.row]; decide⟩

theorem rdMs : Statement .rdMs :=
  ⟨by decide, by simp only [Instr.row]; decide⟩

theorem rdSec : Statement .rdSec :=
  ⟨by decide, by simp only [Instr.row]; decide⟩

theorem rdMin : Statement .rdMin :=
  ⟨by decide, by simp only [Instr.row]; decide⟩

theorem rdSeten : Statement .rdSeten :=
  ⟨by decide, by simp only [Instr.row]; decide⟩

theorem wrSeten (d : Byte) : Statement (.wrSeten d) :=
  ⟨by revert d; decide +kernel, by simp only [Instr.row]; decide⟩

theorem rdPri (n : Chan) : Statement (.rdPri n) :=
  ⟨by cases n <;> decide, by simp only [Instr.row]; decide⟩

theorem wrPri (n : Chan) (d : Byte) : Statement (.wrPri n d) :=
  ⟨by cases n <;> revert d <;> decide +kernel, by simp only [Instr.row]; decide⟩

theorem pin (i : Chan) (p : Byte) : Statement (.pin i p) :=
  ⟨by cases i <;> revert p <;> decide +kernel, by simp only [Instr.row]; decide⟩

theorem tick : Statement .tick :=
  ⟨by decide, by simp only [Instr.row]; decide⟩

theorem reset : Statement .reset :=
  ⟨by decide, by simp only [Instr.row]; decide⟩

theorem setcb (i : Chan) (c : Byte) : Statement (.setcb i c) :=
  ⟨by cases i <;> revert c <;> decide +kernel, by simp only [Instr.row]; decide⟩

theorem call (i : Chan) (s : Byte) : Statement (.call i s) :=
  ⟨by cases i <;> revert s <;> decide +kernel, by simp only [Instr.row]; decide⟩

end Sys2Proof.Laws.EncodingRow
end

