-- ==== Sys2Proof/Tests/Slice0.lean ====
section
/-! SUPPORT. The model's own tests: the checks of well-formedness refuse an ill-formed term each, every row of the opcode table
is decoded from a word written out from the spec, one step of each stimulus agrees with the vectors of 95_test_vectors.md, and
the hypotheses of every statement are met somewhere. -/

namespace Sys2Proof.Tests

open Sys2Proof.Machine Sys2Proof.Safety

/-! ## Well-formedness: each check refuses an ill-formed term (95_test_vectors.md T17, 00_scope.md R8) -/

theorem test_kind_check : wordKindOk 0x70000#20 = false ∧ wordKindOk 0x60000#20 = true := by decide

theorem test_read_data_check : wordReadOk 0x00901#20 = false ∧ wordReadOk 0x00900#20 = true := by decide

theorem test_stray_field_check :
    wordPlainOk 0x30001#20 = false ∧ wordPlainOk 0x40100#20 = false ∧ wordPlainOk 0x30000#20 = true := by decide

theorem test_channel_index_check :
    wordIndexOk 0x20201#20 = false ∧ wordIndexOk 0x50201#20 = false ∧ wordIndexOk 0x60401#20 = false ∧
      wordIndexOk 0x201FF#20 = true := by decide

theorem test_word_check : wordOk 0xFFFFF#20 = false ∧ wordOk 0x04900#20 = true := by decide

theorem test_masks_check : Params.masksOk { Params.ex with mask := ⟨0x07#8, 0x0F#8⟩ } = false := by decide

theorem test_codes_one_bit_check : Params.codesOneBit { Params.ex with codeToggle := 0x03#8 } = false := by decide

theorem test_codes_differ_check : Params.codesDiffer { Params.ex with codeDec := 0x01#8 } = false := by decide

theorem test_example_parameters_ok : Params.ex.ok = true := by decide

/-! ## Decoding: words written out bit by bit from 30_encoding.md R93 -/

/-- 30_encoding.md R93, the rows RD.DATA to RD.PULL. -/
theorem test_decode_channel_controls :
    decode 0b00000000000000000000#20 = .instr (.rdData .c0) ∧
    decode 0b00000100000100000000#20 = .instr (.rdDir .c1) ∧
    decode 0b00010000000110000001#20 = .instr (.wrDir .c0 0x81#8) ∧
    decode 0b00000100001000000000#20 = .instr (.rdAfsel .c1) ∧
    decode 0b00010000001011000011#20 = .instr (.wrAfsel .c0 0xC3#8) ∧
    decode 0b00000100001100000000#20 = .instr (.rdDen .c1) ∧
    decode 0b00010000001110100101#20 = .instr (.wrDen .c0 0xA5#8) ∧
    decode 0b00000100010000000000#20 = .instr (.rdPull .c1) := by decide

/-- R93, the rows WR.PULL to WR.IEV. -/
theorem test_decode_channel_edges :
    decode 0b00010000010010000001#20 = .instr (.wrPull .c0 0x81#8) ∧
    decode 0b00000100010100000000#20 = .instr (.rdIs .c1) ∧
    decode 0b00010000010111000011#20 = .instr (.wrIs .c0 0xC3#8) ∧
    decode 0b00000100011000000000#20 = .instr (.rdIbe .c1) ∧
    decode 0b00010000011010100101#20 = .instr (.wrIbe .c0 0xA5#8) ∧
    decode 0b00000100011100000000#20 = .instr (.rdIev .c1) ∧
    decode 0b00010000011110000001#20 = .instr (.wrIev .c0 0x81#8) := by decide

/-- R93, the rows RD.RIS to WR.CLKEN. -/
theorem test_decode_channel_flags :
    decode 0b00000100100000000000#20 = .instr (.rdRis .c1) ∧
    decode 0b00000000100100000000#20 = .instr (.rdMis .c0) ∧
    decode 0b00010100101000111100#20 = .instr (.wrIcr .c1 0x3C#8) ∧
    decode 0b00000000101100000000#20 = .instr (.rdIm .c0) ∧
    decode 0b00010100101101011010#20 = .instr (.wrIm .c1 0x5A#8) ∧
    decode 0b00000000110000000000#20 = .instr (.rdClken .c0) ∧
    decode 0b00010100110001111110#20 = .instr (.wrClken .c1 0x7E#8) := by decide

/-- R93, the rows RD.START to RD.MIN. -/
theorem test_decode_accumulator :
    decode 0b00001000000000000000#20 = .instr .rdStart ∧
    decode 0b00011000000000111100#20 = .instr (.wrStart 0x3C#8) ∧
    decode 0b00001000000100000000#20 = .instr .rdRstreq ∧
    decode 0b00011000000101011010#20 = .instr (.wrRstreq 0x5A#8) ∧
    decode 0b00001000001000000000#20 = .instr .rdMsel ∧
    decode 0b00001000001100000000#20 = .instr .rdMs ∧
    decode 0b00001000010000000000#20 = .instr .rdSec ∧
    decode 0b00001000010100000000#20 = .instr .rdMin := by decide

/-- R93, the rows RD.SETEN to CALL. -/
theorem test_decode_controller_and_events :
    decode 0b00001100000000000000#20 = .instr .rdSeten ∧
    decode 0b00011100000001011010#20 = .instr (.wrSeten 0x5A#8) ∧
    decode 0b00001100001000000000#20 = .instr (.rdPri .c0) ∧
    decode 0b00011100001101111110#20 = .instr (.wrPri .c1 0x7E#8) ∧
    decode 0b00100000000011000011#20 = .instr (.pin .c0 0xC3#8) ∧
    decode 0b00110000000000000000#20 = .instr .tick ∧
    decode 0b01000000000000000000#20 = .instr .reset ∧
    decode 0b01010000000101011010#20 = .instr (.setcb .c1 0x5A#8) ∧
    decode 0b01100000000010000001#20 = .instr (.call .c0 0x81#8) := by decide

/-- T17, V-DEC-1 to V-DEC-7. -/
theorem test_decode_refusals :
    decode 0x70000#20 = .invalid .reservedKind ∧ decode 0xFFFFF#20 = .invalid .reservedKind ∧
    decode 0x00901#20 = .invalid .readData ∧ decode 0x30100#20 = .invalid .strayField ∧
    decode 0x40001#20 = .invalid .strayField ∧ decode 0x20201#20 = .invalid .channelIndex ∧
    decode 0x60401#20 = .invalid .channelIndex ∧ decode 0x00D00#20 = .badRead 0x0D#8 := by decide

/-- 20_memory.md R62: the ends of each block of registers and the first hole after it. -/
theorem test_address_map :
    Reg.ofAddr 0x0C#8 = some (.clken .c0) ∧ Reg.ofAddr 0x0D#8 = none ∧ Reg.ofAddr 0x4C#8 = some (.clken .c1) ∧
    Reg.ofAddr 0x4D#8 = none ∧ Reg.ofAddr 0x85#8 = some .min ∧ Reg.ofAddr 0x86#8 = none ∧ Reg.ofAddr 0xC1#8 = none ∧
    Reg.ofAddr 0xC3#8 = some (.pri .c1) ∧ Reg.ofAddr 0xC4#8 = none := by decide

/-- The host's entry reads a 20-bit word (V-DEC-8) and nothing wider. -/
theorem test_table_word : decodeTableWord 24 0x04900 = some (.rdMis .c1) ∧ decodeTableWord 24 0x104900 = none := by decide

/-! ## Small states -/

/-- A channel of reset values with its port clock on. -/
def chOn : Channel := { Channel.zero 0x00#8 with clken := true }

/-- A channel all of whose pins are armed and unmasked. -/
def chArmed : Channel := { chOn with den := 0xFF#8, iev := 0xFF#8, im := 0xFF#8 }

/-- Reset but for channel 0. -/
def withCh (c : Channel) : State := { State.launch 0x00#8 0x00#8 with eic := ⟨c, .zero 0x00#8⟩ }

/-- Reset but for the accumulator. -/
def withPta (e : BitVec 7) (d : BitVec 4) (s : BitVec 6) (m : BitVec 4) (run rst : Bool) : State :=
  { State.launch 0x00#8 0x00#8 with pta := ⟨e, d, s, m, run, rst⟩ }

/-- Both ports clocked, callbacks in both slots. -/
def ready (cb : Byte) : State :=
  { State.launch 0x00#8 0x00#8 with eic := .both chOn, handlers := .both ⟨some cb, .idle⟩ }

/-- A state in which an access has faulted. -/
def faulted : State := { State.launch 0x00#8 0x00#8 with fault := some (.busError 0x0D#8 .read) }

/-- Both ports clocked and lines enabled, all pins of channel i pending and unmasked where v has a 1, a callback in each slot. -/
def due (v : Byte) : State :=
  { ready 0x01#8 with eic := .both { chOn with ris := v, im := v }, intc := ⟨0b11#2, .both 0x00#8⟩ }

/-- The state after a stimulus that has a step. -/
def after (k : Instr) (s : State) : Option State :=
  match exec k s with
  | .next t => some t
  | _ => none

/-- The byte a stimulus delivers. -/
def got (k : Instr) (s : State) : Option Byte := (after k s).bind (·.result)

/-- The fault a stimulus raises. -/
def raised (k : Instr) (s : State) : Option FaultRec := (after k s).bind (·.fault)

/-! ## Channel registers (T13) -/

/-- V-REG-1, V-REG-2. -/
theorem test_gated_accesses :
    raised (.rdIm .c0) (withCh (.zero 0)) = some (.busError 0x0B#8 .read) ∧
    raised (.wrDir .c0 0x00#8) (withCh (.zero 0)) = some (.busError 0x01#8 .write) := by decide

/-- V-REG-3, V-REG-4. -/
theorem test_clock_enable :
    got (.rdClken .c0) (withCh (.zero 0)) = some 0x00#8 ∧ got (.rdClken .c0) (withCh chOn) = some 0x01#8 ∧
    (after (.wrClken .c0 0xFF#8) (withCh (.zero 0))).map (·.eic.c0.clken) = some true ∧
    (after (.wrClken .c0 0xFE#8) (withCh chOn)).map (·.eic.c0.clken) = some false := by decide

/-- V-REG-5. -/
theorem test_clock_enable_other_channel :
    (after (.wrClken .c1 0x01#8) (withCh (.zero 0))).map (fun s => (s.eic.c0.clken, s.eic.c1.clken)) =
      some (false, true) := by decide

/-- V-REG-6 to V-REG-11: the accesses with no row. -/
theorem test_illegal_accesses :
    memRead 0x0A#8 (withCh chOn) = .error (.busError 0x0A#8 .read) ∧
    memWrite 0x00#8 0x05#8 (withCh chOn) = .error (.busError 0x00#8 .write) ∧
    memWrite 0x08#8 0x00#8 (withCh chOn) = .error (.busError 0x08#8 .write) ∧
    memWrite 0x09#8 0x00#8 (withCh chOn) = .error (.busError 0x09#8 .write) ∧
    memRead 0x0D#8 (withCh chOn) = .error (.busError 0x0D#8 .read) ∧
    memRead 0x4D#8 (withCh chOn) = .error (.busError 0x4D#8 .read) := ⟨rfl, rfl, rfl, rfl, rfl, rfl⟩

/-- R100 to R118: each read delivers its own register. -/
theorem test_reads_deliver_their_own_register :
    let s := withCh { chOn with
      dir := 0x11#8, afsel := 0x12#8, den := 0x13#8, pull := 0x14#8, sense := 0x15#8, ibe := 0x16#8, iev := 0x17#8,
      ris := 0x38#8, im := 0x2B#8 }
    got (.rdDir .c0) s = some 0x11#8 ∧ got (.rdAfsel .c0) s = some 0x12#8 ∧ got (.rdDen .c0) s = some 0x13#8 ∧
    got (.rdPull .c0) s = some 0x14#8 ∧ got (.rdIs .c0) s = some 0x15#8 ∧ got (.rdIbe .c0) s = some 0x16#8 ∧
    got (.rdIev .c0) s = some 0x17#8 ∧ got (.rdRis .c0) s = some 0x38#8 ∧ got (.rdMis .c0) s = some 0x28#8 ∧
    got (.rdIm .c0) s = some 0x2B#8 := by decide

/-- R102 to R119: each write reaches its own register. -/
theorem test_writes_reach_their_own_register :
    (after (.wrDir .c0 0x21#8) (withCh chOn)).map (·.eic.c0.dir) = some 0x21#8 ∧
    (after (.wrAfsel .c0 0x22#8) (withCh chOn)).map (·.eic.c0.afsel) = some 0x22#8 ∧
    (after (.wrDen .c0 0x23#8) (withCh chOn)).map (·.eic.c0.den) = some 0x23#8 ∧
    (after (.wrPull .c0 0x24#8) (withCh chOn)).map (·.eic.c0.pull) = some 0x24#8 ∧
    (after (.wrIs .c0 0x25#8) (withCh chOn)).map (·.eic.c0.sense) = some 0x25#8 ∧
    (after (.wrIbe .c0 0x26#8) (withCh chOn)).map (·.eic.c0.ibe) = some 0x26#8 ∧
    (after (.wrIev .c0 0x27#8) (withCh chOn)).map (·.eic.c0.iev) = some 0x27#8 ∧
    (after (.wrIm .c0 0x2B#8) (withCh chOn)).map (·.eic.c0.im) = some 0x2B#8 := by decide

/-- V-REG-12: of RIS = 0x00 only the two bits that change are drawn. -/
theorem test_config_write_draws_changed_bits (x : Byte) : risAfterConfig 0x00#8 0x03#8 x &&& 0xFC#8 = 0x00#8 := by
  revert x; decide

/-- V-REG-13: the same write again keeps RIS, whatever is drawn. -/
theorem test_config_write_again_keeps_flags (r d x : Byte) : risAfterConfig r (d ^^^ d) x = r := by
  simpa [risAfterConfig, pick] using (BitVec.and_allOnes : r &&& BitVec.allOnes 8 = r)

/-- V-REG-14, V-REG-15. -/
theorem test_pull_and_mask_leave_flags :
    (after (.wrPull .c0 0x03#8) (withCh { chOn with ris := 0xA5#8 })).map (·.eic.c0.ris) = some 0xA5#8 ∧
    (after (.wrIm .c0 0x03#8) (withCh { chOn with ris := 0xA5#8 })).map (·.eic.c0.ris) = some 0xA5#8 := by decide

/-- V-REG-16 to V-REG-18. -/
theorem test_acknowledge :
    (after (.wrIcr .c0 0x01#8) (withCh { chOn with ris := 0x03#8 })).map (·.eic.c0.ris) = some 0x02#8 ∧
    (after (.wrIcr .c0 0x00#8) (withCh { chOn with ris := 0x03#8 })).map (·.eic.c0.ris) = some 0x03#8 ∧
    (after (.wrIcr .c0 0xFF#8) (withCh { chOn with ris := 0x03#8 })).map (·.eic.c0.ris) = some 0x00#8 := by decide

/-- V-REG-19, V-REG-20. -/
theorem test_masked_status_and_request :
    got (.rdMis .c0) (withCh { chOn with ris := 0x03#8, im := 0x01#8 }) = some 0x01#8 ∧
    irq { chOn with ris := 0x03#8, im := 0x01#8 } = true ∧ irq { chOn with ris := 0x02#8, im := 0x01#8 } = false ∧
    irq { chOn with ris := 0x02#8, im := 0x03#8 } = true := by decide

/-- V-REG-22: two digital-in pins, levels 0x05. -/
theorem test_data_shows_digital_in_pins (x : Byte) :
    dataView { chOn with den := 0x03#8, pin := 0x05#8 } x &&& 0x03#8 = 0x01#8 := by
  revert x; decide

/-! ## Pin events (T14) -/

/-- V-PIN-1 to V-PIN-4, with pins 0 and 1 armed. -/
theorem test_pin_edges (x : Byte) :
    risAfterPin { chOn with den := 0x03#8, iev := 0x03#8 } 0x01#8 x &&& 0x03#8 = 0x01#8 ∧
    risAfterPin { chOn with den := 0x03#8, iev := 0x03#8, pin := 0x01#8, ris := 0x01#8 } 0x00#8 x &&& 0x03#8 = 0x01#8 ∧
    risAfterPin { chOn with den := 0x03#8, iev := 0x03#8, pin := 0x01#8 } 0x01#8 x &&& 0x03#8 = 0x00#8 ∧
    risAfterPin { chOn with den := 0x03#8, iev := 0x03#8 } 0x03#8 x &&& 0x03#8 = 0x03#8 := by
  revert x; decide

/-- V-PIN-10: the levels of the other channel stay. -/
theorem test_pin_levels :
    (after (.pin .c1 0x01#8) (withCh chArmed)).map (fun s => (s.eic.c0 == chArmed, s.eic.c1.pin)) =
      some (true, 0x01#8) := by decide

/-! ## Callbacks and the dispatcher (T15, under the example parameters where one is needed) -/

/-- V-CB-1, V-CB-3 (reference and hardened). -/
theorem test_register_callback :
    (registerCallback Params.ex .c0 0x01#8 (ready 0x02#8)).toOption.map (·.handlers.c0.cb) = some (some 0x01#8) ∧
    (registerCallback Params.ex .c0 0x00#8 (ready 0x02#8)).toOption.map (·.handlers.c0.cb) = some none ∧
    registerCallback { Params.ex with hardenedInit := true } .c0 0x00#8 (ready 0x02#8) = .error (.invalidCallback .c0) :=
  ⟨rfl, rfl, rfl⟩

/-- V-CB-4. -/
theorem test_call_of_empty_slot :
    callSlot Params.ex .c0 0x01#8 (withCh chOn) = .error (.invalidCallback .c0) := rfl

/-- V-DSP-1 to V-DSP-6. -/
theorem test_two_button_table :
    let s : Byte → State := fun v => { ready 0x01#8 with dsp := ⟨v, 0x00#8⟩ }
    (dispatch2 Params.ex 0x01#8 (s 7#8)).dsp.displayCounter = 8#8 ∧
    (dispatch2 Params.ex 0x01#8 (s 15#8)).dsp.displayCounter = 0#8 ∧
    (dispatch2 Params.ex 0x02#8 (s 0#8)).dsp.displayCounter = 15#8 ∧
    (dispatch2 Params.ex 0x03#8 (s 7#8)).dsp.displayCounter = 7#8 ∧
    (dispatch2 Params.ex 0x00#8 (s 7#8)).dsp.displayCounter = 7#8 ∧
    (dispatch2 Params.ex 0x80#8 (s 7#8)).dsp.displayCounter = 7#8 := by decide

/-- V-DSP-7, V-DSP-8. -/
theorem test_four_button_table :
    let s : Byte → State := fun v => { ready 0x02#8 with dsp := ⟨0x00#8, v⟩ }
    (dispatch4 Params.ex 0x01#8 (s 0x00#8)).dsp.ledOut = 0x01#8 ∧
    (dispatch4 Params.ex 0x01#8 (s 0x01#8)).dsp.ledOut = 0x00#8 ∧
    (dispatch4 Params.ex 0x02#8 (s 0x00#8)).dsp.ledOut = 0x00#8 ∧
    (dispatch4 Params.ex 0x03#8 (s 0x00#8)).dsp.ledOut = 0x00#8 := by decide

/-- 43_dispatcher.md R193: effects run in order, and the first illegal access ends them. -/
theorem test_effects :
    (runEffects [.setLed 0x55#8, .wr 0x81#8 0x01#8] (withCh chOn)).toOption.map (fun s => (s.dsp.ledOut, s.pta.rstReq)) =
      some (0x55#8, true) ∧
    runEffects [.setLed 0x55#8, .wr 0x82#8 0x01#8] (withCh chOn) = .error (.busError 0x82#8 .write) := ⟨rfl, rfl⟩

/-! ## The accumulator (T10 to T12) -/

/-- V-PTR-1 to V-PTR-4. -/
theorem test_start_flag :
    (after (.wrStart 0x01#8) (withPta 0 0 0 0 false false)).map (·.pta.start) = some true ∧
    (after (.wrStart 0xFE#8) (withPta 0 0 0 0 true false)).map (·.pta.start) = some false ∧
    got .rdStart (withPta 0 0 0 0 true false) = some 0x01#8 := by decide

/-- V-PTR-5, V-PTR-6. -/
theorem test_request_flag :
    (after (.wrRstreq 0x01#8) (withPta 50 3 0 0 true false)).map (·.pta) = some ⟨50, 3, 0, 0, true, true⟩ ∧
    got .rdRstreq (withPta 0 0 0 0 false true) = some 0x01#8 := by decide

/-- V-PTA-9: the four reads at the largest value. -/
theorem test_counter_reads :
    got .rdMsel (withPta 99 9 59 9 true false) = some 0x63#8 ∧ got .rdMs (withPta 99 9 59 9 true false) = some 0x09#8 ∧
    got .rdSec (withPta 99 9 59 9 true false) = some 0x3B#8 ∧ got .rdMin (withPta 99 9 59 9 true false) = some 0x09#8 := by
  decide

/-- V-PTA-13 to V-PTA-19. -/
theorem test_tick :
    tickPta ⟨50, 3, 0, 0, true, true⟩ = ⟨0, 0, 0, 0, false, false⟩ ∧
    tickPta ⟨50, 3, 0, 0, false, true⟩ = ⟨0, 0, 0, 0, false, false⟩ ∧
    tickPta ⟨50, 3, 0, 0, false, false⟩ = ⟨50, 3, 0, 0, false, false⟩ ∧
    tickPta ⟨98, 9, 59, 9, true, false⟩ = ⟨99, 9, 59, 9, true, false⟩ ∧
    tickPta ⟨99, 9, 59, 0, true, false⟩ = ⟨0, 0, 0, 1, true, false⟩ ∧
    tickPta ⟨99, 9, 59, 9, true, false⟩ = ⟨0, 0, 0, 0, true, false⟩ := by decide

/-- V-PTA-20 to V-PTA-26: stored values no run reaches. -/
theorem test_tick_out_of_range :
    tickPta ⟨127, 15, 63, 15, true, false⟩ = ⟨0, 0, 0, 0, true, false⟩ ∧
    tickPta ⟨5, 12, 0, 0, true, false⟩ = ⟨6, 0, 1, 0, true, false⟩ ∧
    tickPta ⟨0, 0, 60, 0, true, false⟩ = ⟨1, 0, 0, 1, true, false⟩ ∧
    tickPta ⟨0, 0, 0, 10, true, false⟩ = ⟨1, 0, 0, 0, true, false⟩ ∧
    tickPta ⟨100, 0, 0, 0, true, false⟩ = ⟨0, 1, 0, 0, true, false⟩ ∧
    tickPta ⟨127, 15, 63, 15, false, true⟩ = ⟨0, 0, 0, 0, false, false⟩ := by decide

/-! ## The interrupt controller (T16) -/

/-- V-INT-1 to V-INT-5. -/
theorem test_line_enables :
    let s : BitVec 2 → State := fun e => { withCh chOn with intc := ⟨e, .both 0x00#8⟩ }
    (after (.wrSeten 0x01#8) (s 0b00#2)).map (·.intc.en) = some 0b01#2 ∧
    (after (.wrSeten 0x02#8) (s 0b01#2)).map (·.intc.en) = some 0b11#2 ∧
    (after (.wrSeten 0xFC#8) (s 0b01#2)).map (·.intc.en) = some 0b01#2 ∧
    got .rdSeten (s 0b11#2) = some 0x03#8 := by decide

/-- V-INT-6. -/
theorem test_priority_bytes :
    (after (.wrPri .c1 0x60#8) (withCh chOn)).map (·.intc.pri) = some ⟨0x00#8, 0x60#8⟩ ∧
    got (.rdPri .c1) { withCh chOn with intc := ⟨0b00#2, ⟨0x00#8, 0x60#8⟩⟩ } = some 0x60#8 := by decide

/-- V-INT-8, V-INT-9. -/
theorem test_lines :
    line (withCh { chOn with ris := 0x01#8, im := 0x01#8 }) .c0 = false ∧ line (due 0x01#8) .c0 = true ∧
    line { due 0x01#8 with eic := .both { chOn with ris := 0x01#8 } } .c0 = false := by decide

/-! ## Faults and reset (T18) -/

/-- V-FLT-1: the next stimulus has no step. -/
theorem test_faulted_machine_has_no_step :
    exec (.rdClken .c0) faulted = .fault (.halted (.busError 0x0D#8 .read)) ∧
    exec .tick faulted = .fault (.halted (.busError 0x0D#8 .read)) := ⟨rfl, rfl⟩

/-- V-FLT-2, V-RST-1. -/
theorem test_reset :
    after .reset faulted = some (State.launch 0x00#8 0x00#8) ∧
    after .reset { withPta 50 3 0 0 true false with
      eic := ⟨{ chArmed with pin := 0x01#8 }, chArmed⟩, dsp := ⟨9#8, 0x01#8⟩ } =
      some (State.launch 0x01#8 0x00#8) := by decide

/-! ## The agents (T15, T22, T23, under the example parameters) -/

/-- P1: the four stimuli of an invocation for a press of button 0. -/
theorem test_handler_stimuli :
    handlerInstr Params.ex .c0 .entered = some (.rdMis .c0) ∧
    handlerInstr Params.ex .c0 (handlerNext Params.ex .c0 0x01#8 .entered) = some (.rdData .c0) ∧
    handlerInstr Params.ex .c0 (handlerNext Params.ex .c0 0xFD#8 (.tested 0x01#8)) = some (.call .c0 0x01#8) ∧
    handlerInstr Params.ex .c0 (handlerNext Params.ex .c0 0x00#8 (.sampled 0x01#8 0x01#8)) = some (.wrIcr .c0 0x03#8) := by
  decide

/-- P3: the callback gets the levels at H2, not the flags seen at H1. -/
theorem test_handler_passes_levels :
    handlerInstr Params.ex .c0 (handlerNext Params.ex .c0 0x02#8 (.tested 0x01#8)) = some (.call .c0 0x02#8) := by decide

/-- P4: a foreign pin ends the invocation after its first stimulus. -/
theorem test_handler_spurious : handlerNext Params.ex .c0 0x80#8 .entered = .idle := by decide

/-- V-INT-8, V-INT-9: a start needs the line, and H1 after a start does not. -/
theorem test_handler_start :
    (handlerStart Params.ex .c0 (due 0x01#8) matches .next ⟨_, ⟨⟨_, .entered⟩, _⟩, _, _, _, _, _, _, _, _⟩) ∧
    (handlerStart Params.ex .c0 (due 0x00#8) matches .next ⟨_, ⟨⟨_, .idle⟩, _⟩, _, _, _, _, _, _, _, _⟩) := by decide

/-- 60_exceptions.md R213: the channels draw apart. -/
theorem test_draws_are_per_channel (s : State) :
    (pinEvent .c0 0x01#8 s).drawn (.eic .c1) = s.drawn (.eic .c1) := rfl

/-- P1: the words of `INIT 0, dispatch2` at a channel of reset values. -/
theorem test_init_words :
    (List.range 21).filterMap (fun n => (initInstr Params.ex .c0 0x01#8 0x00#8 n).map encode) =
      [0x50001#20, 0x10C01#20, 0x00100#20, 0x10100#20, 0x00200#20, 0x10200#20, 0x00300#20, 0x10303#20, 0x00400#20,
        0x10403#20, 0x00500#20] ++
      [0x10500#20, 0x00600#20, 0x10600#20, 0x00700#20, 0x10703#20, 0x10A03#20, 0x00B00#20, 0x10B03#20, 0x1C200#20,
        0x1C001#20] := by decide

/-- The host's presenting of a word: `TICK` runs next (00_scope.md R10). -/
theorem test_presented_word_runs (s : State) : step (s.withFetchWord 24 0x30000) = passOver s (exec .tick s) := rfl

/-- At reset nothing is passed over: the word runs. -/
theorem test_word_runs_at_reset : step (State.reset.withFetchWord 24 0x04900) = exec (.rdMis .c1) State.reset := rfl

/-! ## The hypotheses of the statements are met -/

theorem witness_EachInstructionHasOneWord : decode 0x30000#20 = .instr .tick := by decide

theorem witness_InvalidWordsAreReservedOrStray :
    (∃ why, decode 0x70000#20 = .invalid why) ∧ (∃ why, decode 0x00001#20 = .invalid why) ∧
    (∃ why, decode 0x30100#20 = .invalid why) ∧ (∃ why, decode 0x40001#20 = .invalid why) ∧
    (∃ why, decode 0x20200#20 = .invalid why) ∧ (∃ why, decode 0x50200#20 = .invalid why) ∧
    (∃ why, decode 0x6FE00#20 = .invalid why) := by
  refine ⟨⟨.reservedKind, ?_⟩, ⟨.readData, ?_⟩, ⟨.strayField, ?_⟩, ⟨.strayField, ?_⟩, ⟨.channelIndex, ?_⟩,
    ⟨.channelIndex, ?_⟩, ⟨.channelIndex, ?_⟩⟩ <;> decide

theorem witness_DecoderReadsTheOpcodeTable :
    (⟨0x0C200#20, 0xFFEFF#20⟩ : Row) ∈ opcodeRows ∧ Row.has ⟨0x0C200#20, 0xFFEFF#20⟩ 0x0C300#20 = true ∧
    decode 0x0C300#20 = .instr (.rdPri .c1) ∧
    (wordOk 0x00D00#20 = true ∧ ∀ r ∈ opcodeRows, r.has 0x00D00#20 = false) ∧
    (wordOk 0x183FF#20 = true ∧ ∀ r ∈ opcodeRows, r.has 0x183FF#20 = false) := by decide

/-- A healthy state with one word to come. -/
def withWord (w : StimWord) (s : State) : State := { s with turns := [.stim w] }

theorem witness_StepRunsTheDecodedInstruction :
    ((withWord 0x18001#20 (withCh chOn)).turns = .stim 0x18001#20 :: [] ∧ decode 0x18001#20 = .instr (.wrStart 0x01#8) ∧
      healthy (withWord 0x18001#20 (withCh chOn))) ∧
    ((withWord 0x40000#20 faulted).turns = .stim 0x40000#20 :: [] ∧ decode 0x40000#20 = .instr .reset) ∧
    ((withWord 0x20000#20 faulted).turns = .stim 0x20000#20 :: [] ∧ decode 0x20000#20 = .instr (.pin .c0 0x00#8) ∧
      ¬ healthy (withWord 0x20000#20 faulted) ∧ Instr.pin .c0 0x00#8 ≠ .reset) := by
  unfold healthy
  decide

/-- An instruction of the table, and an illegal access. -/
theorem witness_EveryStimulusHasAStep :
    healthy (withWord 0x00D00#20 (withCh chOn)) ∧ (withWord 0x00D00#20 (withCh chOn)).turns = .stim 0x00D00#20 :: [] ∧
      ∀ why, decode 0x00D00#20 ≠ .invalid why := ⟨rfl, rfl, fun why => by cases why <;> decide⟩

theorem witness_InvalidWordIsRefused :
    (withWord 0x70000#20 (withCh chOn)).turns = .stim 0x70000#20 :: [] ∧ decode 0x70000#20 = .invalid .reservedKind := by
  decide

/-- The states for a read and for a write word. -/
theorem witness_IllegalAccessRaisesBusError (a d : Byte) :
    healthy (withWord (stimWord 0#4 a 0#8) (withCh chOn)) ∧
    (withWord (stimWord 0#4 a 0#8) (withCh chOn)).turns = .stim (stimWord 0#4 a 0#8) :: [] ∧
    healthy (withWord (stimWord 1#4 a d) (withCh chOn)) ∧
    (withWord (stimWord 1#4 a d) (withCh chOn)).turns = .stim (stimWord 1#4 a d) :: [] := ⟨rfl, rfl, rfl, rfl⟩

/-- Each clause of `IllegalAccessRaisesBusError` at the ends of its range, and the addresses beside them that meet none: the
addresses the read clauses hold at, then those the write clauses hold at. -/
theorem witness_IllegalAccessRaisesBusError_addresses :
    (∀ a ∈ [0x0D#8, 0x3F#8, 0x4D#8, 0x7F#8, 0x86#8, 0xBF#8, 0xC1#8, 0xC4#8, 0xFF#8, 0x0A#8, 0x4A#8],
      (a.toNat < 0x80 ∧ 0x0C < a.toNat % 0x40) ∨ (0x85 < a.toNat ∧ a.toNat < 0xC0) ∨ a = 0xC1#8 ∨ 0xC3 < a.toNat ∨
        (a.toNat < 0x80 ∧ a.toNat % 0x40 = 0x0A)) ∧
    (∀ a ∈ [0x0C#8, 0x0B#8, 0x09#8, 0x4C#8, 0x40#8, 0x80#8, 0x85#8, 0xC0#8, 0xC2#8, 0xC3#8],
      ¬ ((a.toNat < 0x80 ∧ 0x0C < a.toNat % 0x40) ∨ (0x85 < a.toNat ∧ a.toNat < 0xC0) ∨ a = 0xC1#8 ∨ 0xC3 < a.toNat ∨
        (a.toNat < 0x80 ∧ a.toNat % 0x40 = 0x0A))) ∧
    (∀ a ∈ [0x0D#8, 0x3F#8, 0x4D#8, 0x7F#8, 0x86#8, 0xBF#8, 0xC1#8, 0xC4#8, 0xFF#8, 0x00#8, 0x48#8, 0x09#8, 0x82#8, 0x85#8],
      (a.toNat < 0x80 ∧ 0x0C < a.toNat % 0x40) ∨ (0x85 < a.toNat ∧ a.toNat < 0xC0) ∨ a = 0xC1#8 ∨ 0xC3 < a.toNat ∨
        (a.toNat < 0x80 ∧ (a.toNat % 0x40 = 0x00 ∨ a.toNat % 0x40 = 0x08 ∨ a.toNat % 0x40 = 0x09)) ∨
        (0x82 ≤ a.toNat ∧ a.toNat ≤ 0x85)) := by
  simp

theorem witness_GatedAccessRaisesBusError (w : StimWord) (i : Chan) :
    healthy (withWord w (withCh (.zero 0))) ∧ ((withWord w (withCh (.zero 0))).eic.get i).clken = false ∧ 0 < 0x0C ∧
      11 < 0x0C ∧ (withWord w (withCh (.zero 0))).turns = .stim w :: [] := by
  cases i <;> exact ⟨rfl, rfl, by decide, by decide, rfl⟩

/-- The ungated clause, at addresses of both kinds with every port clock off. -/
theorem witness_GatedAccessRaisesBusError_ungated :
    let s := fun w => withWord w (withCh (.zero 0))
    healthy (s (stimWord 0#4 0x85#8 0#8)) ∧ (s (stimWord 0#4 0x85#8 0#8)).turns = .stim (stimWord 0#4 0x85#8 0#8) :: [] ∧
      (0x80 ≤ (0x85#8).toNat ∧ (0x85#8).toNat ≤ 0x85) ∧ healthy (s (stimWord 1#4 0x81#8 0xFF#8)) ∧
      (s (stimWord 1#4 0x81#8 0xFF#8)).turns = .stim (stimWord 1#4 0x81#8 0xFF#8) :: [] :=
  ⟨rfl, rfl, by decide, rfl, rfl⟩

theorem witness_FaultIsTerminalButForReset :
    (healthy (withCh (.zero 0)) ∧ ∃ t, exec (.rdIm .c0) (withCh (.zero 0)) = .next t ∧ ¬ healthy t) ∧
    (faulted.fault = some (.busError 0x0D#8 .read) ∧ Instr.tick ≠ .reset) := by
  refine ⟨⟨rfl, _, rfl, ?_⟩, rfl, by decide⟩
  unfold healthy
  decide

/-- No entry, an entry without a step of each kind, and the `RESET` word. -/
theorem witness_FaultedMachineWaitsForReset :
    ¬ healthy faulted ∧ faulted.turns = [] ∧
      HasNoStepWhenFaulted (.stim 0x20000#20) ∧ HasNoStepWhenFaulted (.handler .c0) ∧
      (withWord 0x40000#20 faulted).turns = .stim (encode .reset) :: [] := by
  refine ⟨by unfold healthy; decide, rfl, ⟨by decide, fun w why h => ?_⟩, ⟨by decide, fun w why h => by cases h⟩, by decide⟩
  cases h
  cases why <;> decide

/-- P6: the fault, a `PIN` that has no step, the `RESET`. -/
theorem witness_FaultedRunGoesOnToReset :
    let s := { faulted with turns := [.stim 0x20000#20, .stim 0x40000#20] }
    ¬ healthy s ∧ s.turns = [.stim 0x20000#20] ++ .stim (encode .reset) :: [] ∧
      ∀ u ∈ [Turn.stim 0x20000#20], HasNoStepWhenFaulted u := by
  refine ⟨by unfold healthy; decide, by decide, fun u hu => ?_⟩
  rw [List.mem_singleton.1 hu]
  exact witness_FaultedMachineWaitsForReset.2.2.1

/-- P6: a `PIN` has no step in the faulted state, and the trace goes on to the `RESET`, which keeps the pins. -/
theorem test_faulted_entry_is_passed_over :
    (step { faulted with turns := [.stim 0x20000#20, .stim 0x40000#20] } matches
      .next ⟨_, _, _, _, _, some _, _, _, _, [.stim _]⟩) := by decide

/-- Both ways of the clock, for `ChannelReadsDeliverTheRegister`, `DataReadShowsLivePinLevels`,
`ConfigurationWritesDrawChangedFlags`, `PullAndMaskWritesOnlyStore` and `AcknowledgeClearsTheNamedFlags`. -/
theorem witness_ChannelReadsDeliverTheRegister :
    (healthy (withCh chOn) ∧ ((withCh chOn).eic.get .c0).clken = true) ∧
    (healthy (withCh (.zero 0)) ∧ ((withCh (.zero 0)).eic.get .c0).clken = false) := ⟨⟨rfl, rfl⟩, rfl, rfl⟩

theorem witness_ConfigurationWritesDrawChangedFlags :
    healthy (withCh chOn) ∧ ((withCh chOn).eic.get .c0).clken = true ∧ bit 0x01#8 0 ≠ bit ((withCh chOn).eic.get .c0).den 0 ∧
    bit 0x01#8 7 = bit ((withCh chOn).eic.get .c0).den 7 := ⟨rfl, rfl, by decide, by decide⟩

theorem witness_PullAndMaskWritesOnlyStore :
    (healthy (withCh chOn) ∧ ((withCh chOn).eic.get .c0).clken = true) ∧
    (healthy (withCh chOn) ∧ ((withCh chOn).eic.get .c1).clken = false) := ⟨⟨rfl, rfl⟩, rfl, rfl⟩

theorem witness_AcknowledgeClearsTheNamedFlags :
    (healthy (withCh chOn) ∧ ((withCh chOn).eic.get .c0).clken = true ∧ 7 < 8) ∧
    (healthy (withCh chOn) ∧ ((withCh chOn).eic.get .c1).clken = false) := ⟨⟨rfl, rfl, by decide⟩, rfl, rfl⟩

/-- A pin of each kind. -/
theorem witness_DataReadShowsLivePinLevels :
    (healthy (withCh { chOn with den := 0x80#8 }) ∧ digInAt { chOn with den := 0x80#8 } 7 ∧
      ¬ digInAt { chOn with den := 0x80#8 } 0) ∧ ((withCh chOn).eic.get .c1).clken = false := by
  unfold digInAt healthy
  decide

theorem witness_ClockEnableIsNeverGated : healthy (withCh chOn) := rfl

theorem witness_ReadsHaveNoSideEffect :
    isRead (.rdMis .c0) = true ∧ ∃ t, exec (.rdMis .c0) (withCh chOn) = .next t ∧ healthy t := ⟨rfl, _, rfl, rfl⟩

/-- A pin of each kind. -/
theorem witness_PinEventSetsRisingFlags :
    healthy (withCh { chArmed with den := 0x01#8 }) ∧ armedAt { chArmed with den := 0x01#8 } 0 ∧
      ¬ armedAt { chArmed with den := 0x01#8 } 7 := by
  unfold armedAt digInAt riseCfgAt healthy
  decide

theorem witness_PendingFlagStaysUntilAcknowledged :
    let s := withCh { chArmed with ris := 0x80#8 }
    7 < 8 ∧ (∃ t, exec (.wrIcr .c0 0x7F#8) s = .next t) ∧ armedAt (s.eic.get .c0) 7 ∧ bit (s.eic.get .c0).ris 7 = true ∧
      Instr.wrIcr .c0 0x7F#8 ≠ .reset ∧
      (∀ j st c, Instr.wrIcr .c0 0x7F#8 = .call j st → (s.handlers.get j).cb = some c → c.toNat < 3) ∧
      ¬ mayTouchFlag .c0 7 (s.eic.get .c0) (.wrIcr .c0 0x7F#8) := by
  refine ⟨by decide, ⟨_, rfl⟩, ?_, by decide, by decide, fun _ _ _ h => Instr.noConfusion h, ?_⟩
  · unfold armedAt digInAt riseCfgAt
    decide
  · unfold mayTouchFlag
    decide

theorem witness_PinLevelsChangeOnlyByPin :
    (∃ t, exec (.pin .c1 0xFF#8) (withCh chOn) = .next t) ∧ ∀ p, Instr.pin .c1 0xFF#8 ≠ .pin .c0 p :=
  ⟨⟨_, rfl⟩, fun _ h => by cases h⟩

theorem witness_ChannelsShareNoState :
    channelOf (.pin .c0 0xFF#8) = some .c0 ∧ (∀ st, Instr.pin .c0 0xFF#8 ≠ .call .c0 st) ∧
      ∃ t, exec (.pin .c0 0xFF#8) (withCh chOn) = .next t := ⟨rfl, fun _ h => Instr.noConfusion h, _, rfl⟩

theorem witness_SetcbFillsTheSlot : healthy (withCh chOn) ∧ (0x01#8 : Byte) ≠ 0#8 ∧ (0xFF#8 : Byte) ≠ 0#8 :=
  ⟨rfl, by decide, by decide⟩

theorem witness_SlotChangesOnlyBySetcbOrReset :
    (∃ t, exec (.wrStart 0x01#8) (ready 0x01#8) = .next t) ∧ Instr.wrStart 0x01#8 ≠ .reset ∧
      ∀ c, Instr.wrStart 0x01#8 ≠ .setcb .c0 c := ⟨⟨_, rfl⟩, by decide, fun _ h => Instr.noConfusion h⟩

theorem witness_CallOfEmptySlotFaults : healthy (withCh chOn) ∧ ((withCh chOn).handlers.get .c0).cb = none := ⟨rfl, rfl⟩

/-- Both ends of the display counter's range. -/
theorem witness_CallRunsTheTwoButtonTable :
    (healthy (ready 0x01#8) ∧ ((ready 0x01#8).handlers.get .c0).cb = some 0x01#8 ∧
      (ready 0x01#8).dsp.displayCounter.toNat ≤ 15) ∧
    (healthy { ready 0x01#8 with dsp := ⟨15#8, 0x00#8⟩ } ∧
      ({ ready 0x01#8 with dsp := ⟨15#8, 0x00#8⟩ } : State).dsp.displayCounter.toNat ≤ 15) :=
  ⟨⟨rfl, rfl, by decide⟩, rfl, by decide⟩

theorem witness_CallRunsTheFourButtonTable :
    healthy (ready 0x02#8) ∧ ((ready 0x02#8).handlers.get .c0).cb = some 0x02#8 := ⟨rfl, rfl⟩

/-- The third clause at both ends, and a byte that no recognised code can be, for the first two. -/
theorem witness_UnrecognisedStatusIsIgnored :
    healthy (ready 0x01#8) ∧ healthy (ready 0x02#8) ∧ ((ready 0x01#8).handlers.get .c0).cb = some 0x01#8 ∧
      ((ready 0x02#8).handlers.get .c0).cb = some 0x02#8 ∧ popcount 0x03#8 ≠ 1 ∧ popcount 0x00#8 ≠ 1 ∧
      0x03#8 ≠ Config.params.codeInc ∧ 0x03#8 ≠ Config.params.codeDec ∧ 0x03#8 ≠ Config.params.codeToggle := by
  have h : ∀ c : Byte, popcount c = 1 → 0x03#8 ≠ c := fun c h e => absurd (e ▸ h) (by decide)
  exact ⟨rfl, rfl, rfl, rfl, by decide, by decide, h _ Config.codeInc_one_bit, h _ Config.codeDec_one_bit,
    h _ Config.codeToggle_one_bit⟩

theorem witness_CallerSuppliedCallbackFrame :
    (healthy (ready 0x03#8) ∧ ((ready 0x03#8).handlers.get .c0).cb = some 0x03#8 ∧ 3 ≤ (0x03#8 : Byte).toNat) ∧
    ((ready 0xFF#8).handlers.get .c1).cb = some 0xFF#8 ∧ 3 ≤ (0xFF#8 : Byte).toNat :=
  ⟨⟨rfl, rfl, by decide⟩, rfl, by decide⟩

theorem witness_StopwatchReadsDeliverTheCounters : healthy (withPta 99 9 59 9 true true) := rfl

theorem witness_StopwatchFlagWritesStoreBitZero : healthy (withPta 99 9 59 9 true true) := rfl

/-- Each clause, with every carry and without one. -/
theorem witness_TickFollowsTheCascade :
    (healthy (withPta 1 2 3 4 true true) ∧ (withPta 1 2 3 4 true true).pta.rstReq = true) ∧
    ((withPta 1 2 3 4 false false).pta.rstReq = false ∧ (withPta 1 2 3 4 false false).pta.start = false) ∧
    ((withPta 99 9 59 9 true false).pta.rstReq = false ∧ (withPta 99 9 59 9 true false).pta.start = true ∧
      99 ≤ (withPta 99 9 59 9 true false).pta.msElapsed.toNat) ∧
    ¬ 99 ≤ (withPta 98 9 59 9 true false).pta.msElapsed.toNat := by
  unfold healthy
  decide

theorem witness_TicksCountModuloTenMinutes :
    healthy (withPta 99 9 59 9 true false) ∧ CountersInRange (withPta 99 9 59 9 true false).pta ∧
      (withPta 99 9 59 9 true false).pta.start = true ∧ (withPta 99 9 59 9 true false).pta.rstReq = false ∧ 0 < 1 := by
  unfold healthy CountersInRange
  decide

theorem witness_ResetRequestStopsAtZero :
    healthy (withPta 50 3 0 0 true true) ∧ (withPta 50 3 0 0 true true).pta.rstReq = true := ⟨rfl, rfl⟩

theorem witness_StoppedTickChangesNothing :
    healthy (withPta 50 3 0 0 false false) ∧ (withPta 50 3 0 0 false false).pta.start = false ∧
      (withPta 50 3 0 0 false false).pta.rstReq = false := ⟨rfl, rfl, rfl⟩

theorem witness_TickBringsCountersIntoRange :
    (∃ t, exec .tick (withPta 127 15 63 15 true false) = .next t) ∧ (withPta 127 15 63 15 true false).pta.start = true :=
  ⟨⟨_, rfl⟩, rfl⟩

theorem witness_CountersChangeOnlyByTickOrReset :
    (∃ t, exec (.wrRstreq 0x01#8) (withPta 50 3 0 0 true false) = .next t) ∧ Instr.wrRstreq 0x01#8 ≠ .tick ∧
      Instr.wrRstreq 0x01#8 ≠ .reset := ⟨⟨_, rfl⟩, by decide, by decide⟩

theorem witness_InterruptControllerAccesses : healthy (due 0x01#8) := rfl

theorem witness_LineEnablesClearedOnlyByReset :
    (∃ t, exec (.wrSeten 0x00#8) (due 0x01#8) = .next t) ∧ Instr.wrSeten 0x00#8 ≠ .reset ∧
      (due 0x01#8).intc.en.getLsbD 1 = true := ⟨⟨_, rfl⟩, by decide, by decide⟩

theorem witness_PinAndTickCommute : healthy (withPta 99 9 59 9 true true) := rfl

theorem witness_EdgeAgainstAcknowledgeOrderMatters :
    healthy (withCh chArmed) ∧ 7 < 8 ∧ armedAt ((withCh chArmed).eic.get .c0) 7 ∧
      bit ((withCh chArmed).eic.get .c0).pin 7 = false ∧ bit 0x80#8 7 = true := by
  unfold armedAt digInAt riseCfgAt healthy
  decide

theorem witness_PinsOfBothChannelsCommute : healthy (withCh chArmed) := rfl

theorem witness_TickAgainstFlagWriteOrderMatters :
    (healthy (withPta 99 9 59 9 false false) ∧ bit 0x01#8 0 = true ∧ (withPta 99 9 59 9 false false).pta.rstReq = false ∧
      (withPta 99 9 59 9 false false).pta.start = false) ∧
    (withPta 98 9 59 9 true false).pta.rstReq = false := ⟨⟨rfl, by decide, rfl, rfl⟩, rfl⟩

/-! ### The agents' statements -/

/-- No channel monitors every pin of its port (00_scope.md R8). -/
theorem mask_ne_all (i : Chan) : Config.params.mask.get i ≠ 0xFF#8 := by
  have h := ((Params.ok_iff _).1 Config.params_ok).1
  cases i
  · intro h0
    rw [show Config.params.mask.c0 = 0xFF#8 from h0] at h
    exact absurd h.1 (by decide)
  · intro h0
    rw [show Config.params.mask.c1 = 0xFF#8 from h0] at h
    exact absurd h.2 (by decide)

/-- A state with given turns to come. -/
def withTurns (ts : List Turn) (s : State) : State := { s with turns := ts }

/-- With pins pending and unmasked, the line of channel 0 is 1. -/
theorem due_line {v : Byte} (h : v ≠ 0#8) (ts : List Turn) : line (withTurns ts (due v)) .c0 = true := by
  simpa [line, irq, mis, withTurns, due, chanBit, PerChan.both, PerChan.get] using h

theorem witness_HandlerStartsOnlyWhenDue :
    let s := withTurns [.handler .c0] (due 0xFF#8)
    s.turns = .handler .c0 :: [] ∧ (s.handlers.get .c0).phase = .idle ∧
      (∃ t, step s = .next t ∧ (t.handlers.get .c0).phase ≠ .idle) ∧ healthy s ∧ line s .c0 = true ∧ Unbarred .c0 s :=
  ⟨rfl, rfl, ⟨_, rfl, by decide⟩, rfl, due_line (by decide) _, .inl rfl⟩

/-- A started invocation of channel 0 with its line still 1 and with its flags cleared since, so that the line is 0. -/
theorem witness_SpuriousEntryIsHarmless :
    let s := fun v => { withTurns [.handler .c0] (due v) with
      handlers := ⟨⟨some 0x01#8, .entered⟩, ⟨some 0x01#8, .idle⟩⟩ }
    let v := ~~~Config.params.mask.get .c0
    ((s v).turns = .handler .c0 :: [] ∧ healthy (s v) ∧ ((s v).handlers.get .c0).phase = .entered ∧
      ((s v).eic.get .c0).clken = true ∧ Unbarred .c0 (s v) ∧ line (s v) .c0 = true ∧
      ((s v).eic.get .c0).ris &&& ((s v).eic.get .c0).im &&& Config.params.mask.get .c0 = 0#8) ∧
    (line (s 0#8) .c0 = false ∧
      ((s 0#8).eic.get .c0).ris &&& ((s 0#8).eic.get .c0).im &&& Config.params.mask.get .c0 = 0#8) := by
  have hm : ∀ m : Byte, m ≠ 0xFF#8 → ~~~m ≠ 0#8 := by decide +kernel
  refine ⟨⟨rfl, rfl, rfl, rfl, .inl rfl, due_line (hm _ (mask_ne_all .c0)) [.handler .c0], ?_⟩, by decide, ?_⟩
  · show ~~~Config.params.mask.get .c0 &&& ~~~Config.params.mask.get .c0 &&& Config.params.mask.get .c0 = 0#8
    generalize Config.params.mask.get .c0 = m
    revert m
    decide +kernel
  · show 0#8 &&& 0#8 &&& Config.params.mask.get .c0 = 0#8
    simp

theorem witness_HandlerInvocationAcknowledges :
    let s := withTurns [.handler .c0, .handler .c0, .handler .c0, .handler .c0, .handler .c0] (due 0xFF#8)
    s.turns = .handler .c0 :: .handler .c0 :: .handler .c0 :: .handler .c0 :: .handler .c0 :: [] ∧ healthy s ∧
      (∀ k, (s.eic.get k).clken = true) ∧ (∀ k, (s.handlers.get k).phase = .idle) ∧ line s .c0 = true ∧
      (s.eic.get .c0).ris &&& (s.eic.get .c0).im &&& Config.params.mask.get .c0 ≠ 0#8 ∧
      (s.handlers.get .c0).cb = some 0x01#8 ∧ s.dsp.displayCounter.toNat ≤ 15 := by
  have hm : ∀ m : Byte, m ≠ 0#8 → 0xFF#8 &&& 0xFF#8 &&& m ≠ 0#8 := by decide +kernel
  exact ⟨rfl, rfl, fun j => by cases j <;> rfl, fun j => by cases j <;> rfl, due_line (by decide) _,
    hm _ (Config.mask_ne_zero .c0), rfl, by decide⟩

/-- The same for callback 2. -/
theorem witness_HandlerInvocationAcknowledges_four_button :
    let s := { withTurns [.handler .c1, .handler .c1, .handler .c1, .handler .c1, .handler .c1] (due 0xFF#8) with
      handlers := .both ⟨some 0x02#8, .idle⟩ }
    s.turns = .handler .c1 :: .handler .c1 :: .handler .c1 :: .handler .c1 :: .handler .c1 :: [] ∧ healthy s ∧
      (∀ k, (s.eic.get k).clken = true) ∧ (∀ k, (s.handlers.get k).phase = .idle) ∧ line s .c1 = true ∧
      (s.eic.get .c1).ris &&& (s.eic.get .c1).im &&& Config.params.mask.get .c1 ≠ 0#8 ∧
      (s.handlers.get .c1).cb = some 0x02#8 := by
  have hm : ∀ m : Byte, m ≠ 0#8 → 0xFF#8 &&& 0xFF#8 &&& m ≠ 0#8 := by decide +kernel
  exact ⟨rfl, rfl, fun j => by cases j <;> rfl, fun j => by cases j <;> rfl, by decide,
    hm _ (Config.mask_ne_zero .c1), rfl⟩

/-- An invocation of channel 0 at each position, with the clocks off and the slot empty. -/
theorem witness_HandlerFaultsStopTheInvocation (ph : Phase) :
    let s := { withTurns [.handler .c0] (withCh (.zero 0)) with handlers := ⟨⟨none, ph⟩, ⟨none, .idle⟩⟩ }
    s.turns = .handler .c0 :: [] ∧ healthy s ∧ Unbarred .c0 s ∧ (s.handlers.get .c0).phase = ph ∧
      (∀ j, (s.eic.get j).clken = false) ∧ (s.handlers.get .c0).cb = none :=
  ⟨rfl, rfl, .inl rfl, rfl, fun j => by cases j <;> rfl, rfl⟩

/-- A state in which the handler of channel 1 is between two of its steps. -/
def busy (ts : List Turn) : State :=
  { ready 0x01#8 with handlers := ⟨⟨some 0x01#8, .idle⟩, ⟨some 0x02#8, .tested 0x01#8⟩⟩, turns := ts }

theorem witness_MainLineWaitsForHandlers (u : Turn) :
    (busy [u]).turns = u :: [] ∧ healthy (busy [u]) ∧ inProgress .c1 (busy [u]) = true := ⟨rfl, rfl, rfl⟩

theorem witness_InitLeavesTheChannelInitialized :
    let s := withTurns (.init .c1 0x02#8 :: (List.replicate 20 .main ++ [])) (withCh chOn)
    s.turns = .init .c1 0x02#8 :: (List.replicate 20 .main ++ []) ∧ healthy s ∧ s.main = .idle ∧
      (∀ j, inProgress j s = false) ∧ ((0x02#8 : Byte) ≠ 0#8 ∨ Config.params.hardenedInit = false) :=
  ⟨rfl, rfl, rfl, fun j => by cases j <;> rfl, .inl (by decide)⟩

/-- The main line, on each side of the clock. -/
theorem witness_ReadStatusGivesMaskedLevels :
    let s := withTurns [.readStatus .mainLine .c0] (withCh { chOn with den := 0x80#8 })
    s.turns = .readStatus .mainLine .c0 :: [] ∧ healthy s ∧ MayReadStatus s .mainLine ∧ (s.eic.get .c0).clken = true ∧
      (s.eic.get .c1).clken = false ∧ digInAt (s.eic.get .c0) 7 ∧ ¬ digInAt (s.eic.get .c0) 0 := by
  refine ⟨rfl, rfl, ⟨rfl, fun j => by cases j <;> rfl⟩, rfl, rfl, ?_⟩
  unfold digInAt
  decide

/-- A handler agent. -/
theorem witness_ReadStatusGivesMaskedLevels_handler :
    (busy [.readStatus (.handler .c1) .c0]).turns = .readStatus (.handler .c1) .c0 :: [] ∧
      healthy (busy [.readStatus (.handler .c1) .c0]) ∧
      MayReadStatus (busy [.readStatus (.handler .c1) .c0]) (.handler .c1) ∧
      ((busy [.readStatus (.handler .c1) .c0]).eic.get .c0).clken = true :=
  ⟨rfl, rfl, ⟨fun h => Phase.noConfusion h, .inl rfl⟩, rfl⟩

theorem witness_StepKeepsTheBlockInvariant :
    let s := withWord 0x30000#20 (withPta 99 9 59 9 true false)
    BlockInv s ∧ ∃ t, step s = .next t := by
  refine ⟨⟨?_, by decide, fun i => by cases i <;> decide, fun w h => by cases h⟩, _, rfl⟩
  unfold CountersInRange
  decide

theorem witness_StepKeepsTheAgentInvariant :
    let s := withTurns [.init .c0 0x01#8] (withCh chOn)
    AgentInv Config.params s ∧ ∃ t, step s = .next t := by
  refine ⟨⟨fun i => by cases i <;> trivial, trivial, fun h => Bool.noConfusion (h .c0)⟩, ?_⟩
  exact ⟨_, rfl⟩

end Sys2Proof.Tests
end

section
/-! PROOFS. The statements of 00_scope.md: a step presents the first word of the schedule, and every well-formed stimulus has a
step in a state with no fault. -/

namespace Sys2Proof.Machine

open Sys2Proof.Safety

/-! ## A word at the boundary -/

/-- The step at a stimulus word: the word is presented, and passed over where it has no step. -/
theorem step_stim {s : State} {w : StimWord} {rest : List Turn} (h : s.turns = .stim w :: rest) :
    step s = passOver { s with turns := rest } (presentWord w { s with turns := rest }) := step_cons h

theorem presentWord_instr {w : StimWord} {i : Instr} (h : decode w = .instr i) (s : State) :
    presentWord w s = exec i s := by simp [presentWord, h]

theorem presentWord_badRead {w : StimWord} {a : Byte} (h : decode w = .badRead a) (s : State) :
    presentWord w s = stimulus s (fun s => (memRead a s).map deliver) := by simp [presentWord, h]

theorem presentWord_badWrite {w : StimWord} {a d : Byte} (h : decode w = .badWrite a d) (s : State) :
    presentWord w s = stimulus s (memWrite a d) := by simp [presentWord, h]

/-! ## A step in a state with no fault -/

/-- Every shape of stimulus but `RESET` is a `stimulus`, which never stops in a state with no fault; `RESET` never stops. -/
theorem exec_has_step {s : State} (hs : healthy s) (k : Instr) : ∃ t, exec k s = .next t := by
  cases exec_shape k with
  | read r _ e => rw [e]; exact stimulus_has_step hs _
  | write r d _ e => rw [e]; exact stimulus_has_step hs _
  | pin i p _ e => rw [e]; exact stimulus_has_step hs _
  | tick _ e => rw [e]; exact stimulus_has_step hs _
  | reset _ e => exact ⟨_, e s⟩
  | setcb i c _ e => rw [e]; exact stimulus_has_step hs _
  | call i st _ e => rw [e]; exact stimulus_has_step hs _

/-- Only an invalid word is refused (R92): an illegal access is a stimulus whose action faults (R86). -/
theorem presentWord_has_step {s : State} {w : StimWord} (hs : healthy s) (hw : ∀ why, decode w ≠ .invalid why) :
    ∃ t, presentWord w s = .next t := by
  cases hd : decode w with
  | instr i => rw [presentWord_instr hd]; exact exec_has_step hs i
  | badRead a => rw [presentWord_badRead hd]; exact stimulus_has_step hs _
  | badWrite a d => rw [presentWord_badWrite hd]; exact stimulus_has_step hs _
  | invalid why => exact absurd hd (hw why)

/-- Settles O59, from the totality of `exec` and of a presented word in a state with no fault. -/
theorem everyStimulusHasAStep : Obligations.EveryStimulusHasAStep := by
  refine ⟨fun k s hs => exec_has_step hs k, fun s w rest hs ht hw => ?_⟩
  have hs' : healthy { s with turns := rest } := hs
  obtain ⟨t, e⟩ := presentWord_has_step hs' hw
  exact ⟨t, by rw [step_stim ht, e, passOver_next]⟩

/-! ## The step of a decoded word -/

/-- The step at the word of an instruction. -/
theorem step_instr {s : State} {w : StimWord} {rest : List Turn} {i : Instr} (ht : s.turns = .stim w :: rest)
    (hd : decode w = .instr i) : step s = passOver { s with turns := rest } (exec i { s with turns := rest }) := by
  rw [step_stim ht, presentWord_instr hd]

/-- The stimuli with a step: all of them in a state with no fault, `RESET` in every state (R205). -/
theorem exec_next_of_healthy_or_reset {s : State} {i : Instr} (h : healthy s ∨ i = .reset) : ∃ t, exec i s = .next t := by
  obtain hs | rfl := h
  · exact exec_has_step hs i
  · exact ⟨_, exec_reset s⟩

/-- Settles O6: the step passes the entry over exactly where `exec` halts, in a faulted state and off `RESET`. -/
theorem stepRunsTheDecodedInstruction : Obligations.StepRunsTheDecodedInstruction := by
  intro s w rest i ht hd
  rw [step_instr ht hd]
  constructor
  · intro h
    have h' : healthy { s with turns := rest } ∨ i = .reset := h
    obtain ⟨t, e⟩ := exec_next_of_healthy_or_reset h'
    rw [e, passOver_next]
  · intro hs hi
    obtain ⟨f, hf⟩ := Option.ne_none_iff_exists'.1 hs
    have hf' : { s with turns := rest }.fault = some f := hf
    rw [exec_faulted hf' hi, passOver_fault]

end Sys2Proof.Machine
end

section
/-! PROOFS. What each stimulus keeps of the state of 10_state.md: the pins, the callback slots, the counters, the line enables and
the pending flags; and what the line of a channel is. -/

namespace Sys2Proof.Machine

open Sys2Proof.Safety

/-! ## What one stimulus can do -/

/-- What a stimulus does, with the state before, the stimulus and the state after: it raises a fault, or it acts on the registers,
flags and dispatcher only (a register access, a callback), or it is one of the four that do more. -/
inductive ExecEffect (s : State) : Instr → State → Prop where
  | raised (k : Instr) (f : FaultRec) : ExecEffect s k (s.raise f)
  | inside (k : Instr) (t : State) (h : SameOutside s t) : ExecEffect s k t
  | pin (i : Chan) (p : Byte) : ExecEffect s (.pin i p) (pinEvent i p (s.setResult none))
  | tick : ExecEffect s .tick ((s.setResult none).updPta tickPta)
  | reset : ExecEffect s .reset s.resetAll
  | setcb (i : Chan) (c : Byte) : ExecEffect s (.setcb i c) ((s.setResult none).setSlot i (slotOf c))

/-- The delivered byte is outside what `SameOutside` speaks of. -/
theorem sameOutside_setResult {s t : State} (r : Option Byte) (h : SameOutside s t) : SameOutside s (t.setResult r) :=
  ⟨h.pin, h.handlers, h.main, h.msElapsed, h.milliseconds, h.seconds, h.minutes, h.fault, h.turns, h.enables⟩

theorem readReg_sameOutside (r : Reg) (s : State) : SameOutside s (readReg r s).2 := by
  obtain e | ⟨w, e⟩ := readReg_state r s <;> rw [e]
  · exact .refl s
  · exact sameOutside_afterDraw w (.refl s)

/-- A stimulus whose action, where it succeeds, has one of these effects, has one of these effects. -/
theorem stimulus_effect {k : Instr} {act : State → Except FaultRec State} {s t : State} (h : stimulus s act = .next t)
    (ha : act (s.setResult none) = .ok t → ExecEffect s k t) : ExecEffect s k t := by
  obtain ⟨-, h | ⟨f, -, rfl⟩⟩ := stimulus_next h
  · exact ha h
  · exact .raised k f

/-- Everything a stimulus that answers a next state can have done. -/
theorem exec_effect {k : Instr} {s t : State} (h : exec k s = .next t) : ExecEffect s k t := by
  have clear : SameOutside s (s.setResult none) := sameOutside_setResult none (.refl s)
  cases exec_shape k with
  | read r _ e =>
    obtain ⟨-, ⟨-, rfl⟩ | ⟨-, rfl⟩⟩ := rdStep_next (e s ▸ h)
    · exact .inside k _ (sameOutside_setResult _ (clear.trans (readReg_sameOutside r _)))
    · exact .raised k _
  | write r d _ e =>
    obtain ⟨-, ⟨-, rfl⟩ | ⟨-, rfl⟩⟩ := wrStep_next (e s ▸ h)
    · exact .inside k _ (clear.trans (writeReg_sameOutside r d _))
    · exact .raised k _
  | pin i p e he =>
    subst e
    exact stimulus_effect (he s ▸ h) fun ht => by cases ht; exact .pin i p
  | tick e he =>
    subst e
    exact stimulus_effect (he s ▸ h) fun ht => by cases ht; exact .tick
  | reset e he =>
    subst e
    cases h
    exact .reset
  | setcb i c e he =>
    subst e
    exact stimulus_effect (he s ▸ h) fun ht => registerCallback_ok ht ▸ .setcb i c
  | call i st _ he =>
    exact stimulus_effect (he s ▸ h) fun ht => .inside k t (clear.trans (callSlot_sameOutside ht))

/-! ## The sole writers of the pins, the slots, the counters and the line enables -/

/-- A pin event of one channel leaves the other channel alone. -/
theorem pinEvent_eic_ne {i j : Chan} (p : Byte) (s : State) (h : i ≠ j) :
    (pinEvent j p s).eic.get i = s.eic.get i := by
  simp [pinEvent, PerChan.get_set, h]

/-- Settles O23: of the effects a stimulus can have, only a pin event changes pins, and only its own channel's. -/
theorem pinLevelsChangeOnlyByPin : Obligations.PinLevelsChangeOnlyByPin := by
  intro k s t i h hk
  cases exec_effect h with
  | raised | tick | setcb => rfl
  | inside _ _ o => exact o.pin i
  | reset => simp [Channel.zero]
  | pin j p =>
    have hij : i ≠ j := fun e => hk p (e ▸ rfl)
    rw [pinEvent_eic_ne p _ hij, State.setResult_eic]

/-- Settles O27: of the effects a stimulus can have, only a registration and `RESET` change a handler, and a registration only its
own channel's. -/
theorem slotChangesOnlyBySetcbOrReset : Obligations.SlotChangesOnlyBySetcbOrReset := by
  intro k s t i h hr hk
  cases exec_effect h with
  | raised | tick | pin => rfl
  | inside _ _ o => rw [o.handlers]
  | reset => exact absurd rfl hr
  | setcb j c =>
    have hij : i ≠ j := fun e => hk c (e ▸ rfl)
    simp [PerChan.get_set, hij]

/-- Settles O40: of the effects a stimulus can have, only those of `TICK` and `RESET` change a counter. -/
theorem countersChangeOnlyByTickOrReset : Obligations.CountersChangeOnlyByTickOrReset := by
  intro k s t h ht hr
  cases exec_effect h with
  | raised | pin | setcb => exact ⟨rfl, rfl, rfl, rfl⟩
  | inside _ _ o => exact ⟨o.msElapsed, o.milliseconds, o.seconds, o.minutes⟩
  | tick => exact absurd rfl ht
  | reset => exact absurd rfl hr

/-- Settles O42: `WR.SETEN` only sets enables (R196), and no other effect but that of `RESET` writes them. -/
theorem lineEnablesClearedOnlyByReset : Obligations.LineEnablesClearedOnlyByReset := by
  intro k s t b h hr hb
  cases exec_effect h with
  | raised | pin | tick | setcb => exact hb
  | inside _ _ o => exact o.enables b hb
  | reset => exact absurd rfl hr

/-! ## The line of a channel -/

/-- A byte is not zero exactly when one of its bits is set. -/
theorem byte_ne_zero_iff (v : Byte) : v ≠ 0#8 ↔ ∃ b, b < 8 ∧ bit v b = true := by
  constructor
  · intro h
    by_contra hn
    refine h (BitVec.eq_of_getLsbD_eq fun b hb => ?_)
    simpa [hb] using fun e => hn ⟨b, hb, e⟩
  · rintro ⟨b, -, hb⟩ rfl
    simp at hb

/-- A channel requests an interrupt exactly when one of its pins is pending and unmasked (R31, R36). -/
theorem irq_iff (c : Channel) : irq c = true ↔ ∃ b, b < 8 ∧ bit c.ris b = true ∧ bit c.im b = true := by
  simp only [irq, bne_iff_ne, byte_ne_zero_iff, mis, BitVec.getLsbD_and, Bool.and_eq_true]

/-- Settles O25, from the bits of the request and the enable's place in `EN`. -/
theorem lineIsPendingUnmaskedAndEnabled : Obligations.LineIsPendingUnmaskedAndEnabled := by
  intro s i
  rw [line, Bool.and_eq_true, irq_iff]
  cases i <;> rfl

/-! ## The pending flags (R30, R35) -/

/-- The flag of pin b of channel i is set. -/
def FlagSet (i : Chan) (b : Nat) (s : State) : Prop := bit (s.eic.get i).ris b = true

section
variable {i j : Chan} {b : Nat} {s t : State}

/-- A flag lives through a stimulus whose action, where it succeeds, keeps it: a fault raised changes no flag (R205). -/
theorem stimulus_flagSet {act : State → Except FaultRec State} (h : stimulus s act = .next t) (hp : FlagSet i b s)
    (ha : act (s.setResult none) = .ok t → FlagSet i b t) : FlagSet i b t := by
  obtain ⟨-, h | ⟨f, -, rfl⟩⟩ := stimulus_next h
  · exact ha h
  · exact hp

/-- A flag lives through an update of one channel that keeps it in that channel. -/
theorem updEic_flagSet {f : Channel → Channel} (hp : FlagSet i b s) (hf : j = i → bit (f (s.eic.get i)).ris b = true) :
    FlagSet i b (s.updEic j f) := by
  unfold FlagSet
  rw [State.updEic_eic, PerChan.get_set]
  split
  · subst_vars; exact hf rfl
  · exact hp

theorem afterDraw_flagSet (w : DrawSite) (hp : FlagSet i b s) : FlagSet i b (s.afterDraw w) := hp

/-- A flag lives through a configuration write that leaves its pin's bit as it was (R35 (b)). -/
theorem configWrite_flagSet {old : Channel → Byte} {put : Channel → Channel} {d : Byte} (hb : b < 8) (hp : FlagSet i b s)
    (hd : ¬ (j = i ∧ bit d b ≠ bit (old (s.eic.get i)) b)) : FlagSet i b (configWrite j old put d s) := by
  refine afterDraw_flagSet _ (updEic_flagSet hp fun hj => ?_)
  have same : d.getLsbD b = (old (s.eic.get i)).getLsbD b := by_contra fun hne => hd ⟨hj, hne⟩
  change (risAfterConfig _ _ _).getLsbD b = true
  rw [risAfterConfig_bit _ _ _ _ hb, if_pos same]
  exact hp

/-- A flag lives through an acknowledge that does not name it (R117). -/
theorem ackWrite_flagSet {d : Byte} (hb : b < 8) (hp : FlagSet i b s) (hd : ¬ (j = i ∧ bit d b = true)) :
    FlagSet i b (writeReg (.icr j) d s) := by
  refine updEic_flagSet hp fun hj => ?_
  have unnamed : d.getLsbD b = false := by simpa [hj] using hd
  have set : (s.eic.get i).ris.getLsbD b = true := hp
  change (risAfterAck _ _).getLsbD b = true
  rw [risAfterAck_bit _ _ hb, set, unnamed]
  rfl

/-- A flag lives through every register write that may not touch it. -/
theorem writeReg_flagSet {r : Reg} {d : Byte} {k : Instr} (hk : r.writeInstr d = some k) (hb : b < 8)
    (hp : FlagSet i b s) (hn : ¬ mayTouchFlag i b (s.eic.get i) k) : FlagSet i b (writeReg r d s) := by
  cases r <;> cases hk
  case dir | afsel | den | sense | ibe | iev => exact configWrite_flagSet hb hp hn
  case icr => exact ackWrite_flagSet hb hp hn
  case pull | im | clken => exact updEic_flagSet hp fun _ => hp
  case start | rstreq | seten | pri => exact hp

theorem wrStep_flagSet {r : Reg} {d : Byte} {k : Instr} (hk : r.writeInstr d = some k) (h : wrStep r d s = .next t)
    (hb : b < 8) (hp : FlagSet i b s) (hn : ¬ mayTouchFlag i b (s.eic.get i) k) : FlagSet i b t := by
  obtain ⟨-, ⟨-, rfl⟩ | ⟨-, rfl⟩⟩ := wrStep_next h
  · exact writeReg_flagSet hk hb hp hn
  · exact hp

theorem rdStep_flagSet {r : Reg} (h : rdStep r s = .next t) (hp : FlagSet i b s) : FlagSet i b t := by
  obtain ⟨-, ⟨-, rfl⟩ | ⟨-, rfl⟩⟩ := rdStep_next h
  · obtain e | ⟨w, e⟩ := readReg_state r (s.setResult none) <;> rw [deliver, e] <;> exact hp
  · exact hp

/-- The flag of an armed pin lives through every pin event (R140). -/
theorem pinEvent_flagSet {p : Byte} (hb : b < 8) (ha : armedAt (s.eic.get i) b) (hp : FlagSet i b s) :
    FlagSet i b (pinEvent j p s) := by
  refine afterDraw_flagSet _ (updEic_flagSet hp fun _ => ?_)
  have set : (s.eic.get i).ris.getLsbD b = true := hp
  change (risAfterPin _ _ _).getLsbD b = true
  rw [risAfterPin_armed _ _ _ hb ha, set, Bool.true_or]

end

@[simp] theorem countDisplay_eic (f : Byte → Byte) (s : State) : (countDisplay f s).eic = s.eic := by
  unfold countDisplay
  split <;> rfl

@[simp] theorem dispatch2_eic (p : Params) (st : Byte) (s : State) : (dispatch2 p st s).eic = s.eic := by
  unfold dispatch2
  split
  · simp
  · split <;> simp

@[simp] theorem dispatch4_eic (p : Params) (st : Byte) (s : State) : (dispatch4 p st s).eic = s.eic := by
  unfold dispatch4
  split <;> rfl

/-- `DISPATCH2` and `DISPATCH4` leave both channels alone: only a caller-supplied callback (R193) may write a register. -/
theorem callSlot_eic {p : Params} {i : Chan} {st : Byte} {s t : State} (h : callSlot p i st s = .ok t)
    (hc : ∀ c, (s.handlers.get i).cb = some c → c.toNat < 3) : t.eic = s.eic := by
  unfold callSlot at h
  split at h
  case h_1 => cases h
  case h_2 c hcb =>
    have small : c.toNat = 0 ∨ c.toNat = 1 ∨ c.toNat = 2 := by
      have lt := hc c hcb
      omega
    unfold callbackRun at h
    split at h
    · cases h
    · cases h; exact dispatch2_eic p st s
    · cases h; exact dispatch4_eic p st s
    · obtain e | e | e := small <;> contradiction

/-- Settles O22: register writes keep every flag they may not touch, pin events the flags of armed pins, and no other stimulus
but `RESET` and a caller-supplied callback writes a flag. -/
theorem pendingFlagStaysUntilAcknowledged : Obligations.PendingFlagStaysUntilAcknowledged := by
  intro k s t i b hb h ha hp hr hc hn
  change FlagSet i b s at hp
  change FlagSet i b t
  cases k
  case reset => exact absurd rfl hr
  case pin j p =>
    rw [exec_pin] at h
    exact stimulus_flagSet h hp fun ht => by cases ht; exact pinEvent_flagSet hb ha hp
  case tick =>
    rw [exec_tick] at h
    exact stimulus_flagSet h hp fun ht => by cases ht; exact hp
  case setcb j c => exact stimulus_flagSet h hp fun ht => registerCallback_ok ht ▸ hp
  case call j st =>
    refine stimulus_flagSet h hp fun ht => ?_
    unfold FlagSet
    rw [callSlot_eic ht fun c => hc j st c rfl]
    exact hp
  case wrDir | wrAfsel | wrDen | wrPull | wrIs | wrIbe | wrIev | wrIcr | wrIm | wrClken | wrStart | wrRstreq | wrSeten
      | wrPri =>
    exact wrStep_flagSet rfl h hb hp hn
  all_goals exact rdStep_flagSet h hp

end Sys2Proof.Machine
end

section
/-! PROOFS. The statements of 20_memory.md: an `RD` or `WR` word is the access of R61 at its address, whatever the decoder makes
of it; which accesses the checks of R68 and R69 bar; and that a read changes nothing. -/

namespace Sys2Proof.Machine

open Sys2Proof.Safety

/-! ## A register's row is the access to the register -/

theorem exec_readInstr {r : Reg} {k : Instr} (h : r.readInstr = some k) (s : State) : exec k s = rdStep r s := by
  cases r <;> cases h <;> rfl

theorem exec_writeInstr {r : Reg} {d : Byte} {k : Instr} (h : r.writeInstr d = some k) (s : State) :
    exec k s = wrStep r d s := by
  cases r <;> cases h <;> rfl

/-- A read stimulus is the read of its register. -/
theorem exec_of_isRead {k : Instr} (h : isRead k = true) : ∃ r, ∀ s, exec k s = rdStep r s := by
  cases k <;> cases h <;> exact ⟨_, fun _ => rfl⟩

/-! ## An access at an address, with and without a register there (R61, R68) -/

theorem memRead_assigned {a : Byte} {r : Reg} (h : Reg.ofAddr a = some r) : memRead a = regRead r := by
  funext s
  simp only [memRead, h]

theorem memRead_unassigned {a : Byte} (h : Reg.ofAddr a = none) (s : State) :
    memRead a s = .error (.busError a .read) := by simp only [memRead, h]

theorem memWrite_assigned {a : Byte} {r : Reg} (h : Reg.ofAddr a = some r) (d : Byte) : memWrite a d = regWrite r d := by
  funext s
  simp only [memWrite, h]

theorem memWrite_unassigned {a : Byte} (h : Reg.ofAddr a = none) (d : Byte) (s : State) :
    memWrite a d s = .error (.busError a .write) := by simp only [memWrite, h]

/-! ## A word of kind `RD` or `WR` (R61; 30_encoding.md R86) -/

theorem decode_readWord (a : Byte) : decode (stimWord 0#4 a 0#8) = decodeRead a 0#8 := by simp [decode]

theorem decode_writeWord (a d : Byte) : decode (stimWord 1#4 a d) = decodeWrite a d := by simp [decode]

/-- An `RD` word is a `MemRead` at its address: with a row in the opcode table it is its register's read, and without one the
machine makes the access itself. -/
theorem presentWord_read (a : Byte) (s : State) :
    presentWord (stimWord 0#4 a 0#8) s = stimulus s (fun s => (memRead a s).map deliver) := by
  have hd := decode_readWord a
  rw [decodeRead, if_pos rfl] at hd
  split at hd
  case h_1 k hk =>
    obtain ⟨r, ha, hr⟩ := Option.bind_eq_some_iff.1 hk
    rw [presentWord_instr hd, exec_readInstr hr, rdStep, memRead_assigned ha]
  case h_2 => exact presentWord_badRead hd s

/-- A `WR` word is a `MemWrite` at its address. -/
theorem presentWord_write (a d : Byte) (s : State) : presentWord (stimWord 1#4 a d) s = stimulus s (memWrite a d) := by
  have hd := decode_writeWord a d
  rw [decodeWrite] at hd
  split at hd
  case h_1 k hk =>
    obtain ⟨r, ha, hr⟩ := Option.bind_eq_some_iff.1 hk
    rw [presentWord_instr hd, exec_writeInstr hr, wrStep, memWrite_assigned ha]
  case h_2 => exact presentWord_badWrite hd s

/-! ## The access checks (R68, R69) -/

/-- An access is barred where no register at the address allows it: there is none, or it fails the checks. -/
theorem memRead_barred {a : Byte} {s : State} (h : ∀ r, Reg.ofAddr a = some r → ¬ allowedRead r s) :
    memRead a s = .error (.busError a .read) := by
  cases ha : Reg.ofAddr a with
  | none => exact memRead_unassigned ha s
  | some r => rw [memRead_assigned ha, regRead_barred (h r ha), Reg.addr_of_ofAddr a r ha]

theorem memWrite_barred {a : Byte} {s : State} (d : Byte) (h : ∀ r, Reg.ofAddr a = some r → ¬ allowedWrite r s) :
    memWrite a d s = .error (.busError a .write) := by
  cases ha : Reg.ofAddr a with
  | none => exact memWrite_unassigned ha d s
  | some r => rw [memWrite_assigned ha, regWrite_barred d (h r ha), Reg.addr_of_ofAddr a r ha]

/-! ## The step at an access -/

section
variable {s : State} {a d : Byte} {rest : List Turn} (hs : healthy s)
include hs

/-- The step at an `RD` word: the access is made, and its fault raised where it has one. -/
theorem step_read (ht : s.turns = .stim (stimWord 0#4 a 0#8) :: rest) :
    step s = .next (State.settle { s with turns := rest }
      ((memRead a { s with turns := rest, result := none }).map deliver)) := by
  have hs' : State.fault { s with turns := rest } = none := hs
  rw [step_stim ht, presentWord_read, stimulus_healthy hs', passOver_next]
  rfl

/-- The step at a `WR` word. -/
theorem step_write (ht : s.turns = .stim (stimWord 1#4 a d) :: rest) :
    step s = .next (State.settle { s with turns := rest } (memWrite a d { s with turns := rest, result := none })) := by
  have hs' : State.fault { s with turns := rest } = none := hs
  rw [step_stim ht, presentWord_write, stimulus_healthy hs', passOver_next]
  rfl

/-- A barred read raises BusError and changes nothing else. (The checks read only the channels, so they answer alike before and
after the entry is taken off the schedule.) -/
theorem step_read_barred (ht : s.turns = .stim (stimWord 0#4 a 0#8) :: rest)
    (h : ∀ r, Reg.ofAddr a = some r → ¬ allowedRead r s) :
    step s = .next { s with turns := rest, fault := some (.busError a .read), result := none } := by
  rw [step_read hs ht, memRead_barred (s := { s with turns := rest, result := none }) h]
  rfl

theorem step_write_barred (ht : s.turns = .stim (stimWord 1#4 a d) :: rest)
    (h : ∀ r, Reg.ofAddr a = some r → ¬ allowedWrite r s) :
    step s = .next { s with turns := rest, fault := some (.busError a .write), result := none } := by
  rw [step_write hs ht, memWrite_barred (s := { s with turns := rest, result := none }) d h]
  rfl

/-- A permitted read delivers the register's byte. -/
theorem step_read_allowed {r : Reg} (ht : s.turns = .stim (stimWord 0#4 a 0#8) :: rest) (ha : Reg.ofAddr a = some r)
    (h : allowedRead r s) : step s = .next (deliver (readReg r { s with turns := rest, result := none })) := by
  rw [step_read hs ht, memRead_assigned ha, regRead_allowed (s := { s with turns := rest, result := none }) h]
  rfl

theorem step_write_allowed {r : Reg} (ht : s.turns = .stim (stimWord 1#4 a d) :: rest) (ha : Reg.ofAddr a = some r)
    (h : allowedWrite r s) : step s = .next (writeReg r d { s with turns := rest, result := none }) := by
  rw [step_write hs ht, memWrite_assigned ha, regWrite_allowed (s := { s with turns := rest, result := none }) d h]
  rfl

end

/-! ## Illegal accesses (R62, R68) -/

/-- The addresses at which `RD` is illegal, by their numbers: the unassigned ones, and `ICR`'s. -/
abbrev IllegalReadAddr (a : Byte) : Prop :=
  (a.toNat < 0x80 ∧ 0x0C < a.toNat % 0x40) ∨ (0x85 < a.toNat ∧ a.toNat < 0xC0) ∨ a = 0xC1#8 ∨ 0xC3 < a.toNat ∨
    (a.toNat < 0x80 ∧ a.toNat % 0x40 = 0x0A)

/-- The addresses at which `WR` is illegal, by their numbers: the unassigned ones, and those of the read-only registers. -/
abbrev IllegalWriteAddr (a : Byte) : Prop :=
  (a.toNat < 0x80 ∧ 0x0C < a.toNat % 0x40) ∨ (0x85 < a.toNat ∧ a.toNat < 0xC0) ∨ a = 0xC1#8 ∨ 0xC3 < a.toNat ∨
    (a.toNat < 0x80 ∧ (a.toNat % 0x40 = 0x00 ∨ a.toNat % 0x40 = 0x08 ∨ a.toNat % 0x40 = 0x09)) ∨
    (0x82 ≤ a.toNat ∧ a.toNat ≤ 0x85)

/-- Of the registers, only `ICR` has an address at which `RD` is illegal. -/
theorem readable_of_illegalReadAddr {r : Reg} (h : IllegalReadAddr r.addr) : readable r = false := by
  cases r
  case icr => rfl
  case start | rstreq | msel | ms | sec | min | seten => exact absurd h (by decide)
  all_goals
    rename_i i
    exact absurd h (by cases i <;> decide)

/-- Of the registers, only the read-only ones have an address at which `WR` is illegal. -/
theorem writable_of_illegalWriteAddr {r : Reg} (h : IllegalWriteAddr r.addr) : writable r = false := by
  cases r
  case data | ris | mis | msel | ms | sec | min => rfl
  case start | rstreq | seten => exact absurd h (by decide)
  all_goals
    rename_i i
    exact absurd h (by cases i <;> decide)

/-- Settles O8: an illegal address holds no register or one that does not allow the access, so the access is barred. -/
theorem illegalAccessRaisesBusError : Obligations.IllegalAccessRaisesBusError := by
  refine fun s a d rest hs => ⟨fun ht h => step_read_barred hs ht ?_, fun ht h => step_write_barred hs ht ?_⟩
  · intro r ha hr
    obtain rfl := Reg.addr_of_ofAddr a r ha
    exact absurd hr.1 (by simp [readable_of_illegalReadAddr h])
  · intro r ha hr
    obtain rfl := Reg.addr_of_ofAddr a r ha
    exact absurd hr.1 (by simp [writable_of_illegalWriteAddr h])

/-! ## Gated accesses (R69) -/

/-- The registers at the offsets 0x00 to 0x0B of a channel are behind its port clock. -/
theorem gateOf_of_offset (i : Chan) {n : Nat} (hn : n < 0x0C) {r : Reg}
    (h : Reg.ofAddr (chanBase i + BitVec.ofNat 8 n) = some r) : gateOf r = some i := by
  cases i <;> interval_cases n <;> cases h <;> rfl

theorem gatedOff_of_gateOf {r : Reg} {i : Chan} {s : State} (h : gateOf r = some i) (hc : (s.eic.get i).clken = false) :
    gatedOff r s = true := by simp [gatedOff, h, hc]

theorem gatedOff_of_ungated {r : Reg} (s : State) (h : gateOf r = none) : gatedOff r s = false := by simp [gatedOff, h]

/-- The accumulator and interrupt-controller addresses hold readable registers behind no clock. -/
theorem ofAddr_readable_ungated {a : Byte}
    (h : (0x80 ≤ a.toNat ∧ a.toNat ≤ 0x85) ∨ a = 0xC0#8 ∨ a = 0xC2#8 ∨ a = 0xC3#8) :
    ∃ r, Reg.ofAddr a = some r ∧ readable r = true ∧ gateOf r = none := by
  have each : a = 0x80#8 ∨ a = 0x81#8 ∨ a = 0x82#8 ∨ a = 0x83#8 ∨ a = 0x84#8 ∨ a = 0x85#8 ∨ a = 0xC0#8 ∨ a = 0xC2#8 ∨
      a = 0xC3#8 := by bv_omega
  obtain rfl | rfl | rfl | rfl | rfl | rfl | rfl | rfl | rfl := each <;> exact ⟨_, rfl, rfl, rfl⟩

/-- The writable ones among them. -/
theorem ofAddr_writable_ungated {a : Byte} (h : a = 0x80#8 ∨ a = 0x81#8 ∨ a = 0xC0#8 ∨ a = 0xC2#8 ∨ a = 0xC3#8) :
    ∃ r, Reg.ofAddr a = some r ∧ writable r = true ∧ gateOf r = none := by
  obtain rfl | rfl | rfl | rfl | rfl := h <;> exact ⟨_, rfl, rfl, rfl⟩

/-- Settles O9: a register behind a clock that is off bars every access, and one behind no clock only an illegal one. -/
theorem gatedAccessRaisesBusError : Obligations.GatedAccessRaisesBusError := by
  refine ⟨fun s i n d rest hs hc hn => ?_, fun s a d rest hs => ?_⟩
  · have gated : ∀ r, Reg.ofAddr (chanBase i + BitVec.ofNat 8 n) = some r → gatedOff r s = true :=
      fun r ha => gatedOff_of_gateOf (gateOf_of_offset i hn ha) hc
    refine ⟨fun ht => step_read_barred hs ht fun r ha hr => ?_, fun ht => step_write_barred hs ht fun r ha hr => ?_,
      fun ht => ?_, fun ht => ?_⟩
    · exact absurd (gated r ha) (by simp [hr.2])
    · exact absurd (gated r ha) (by simp [hr.2])
    · rw [step_read_allowed hs ht (Reg.ofAddr_addr (.clken i)) ⟨rfl, rfl⟩]
      simp [deliver, readReg, State.setResult, zextBit, hc]
    · rw [step_write_allowed hs ht (Reg.ofAddr_addr (.clken i)) ⟨rfl, rfl⟩]
      rfl
  · constructor
    · intro ht h
      obtain ⟨r, ha, hr, hg⟩ := ofAddr_readable_ungated h
      refine ⟨_, step_read_allowed hs ht ha ⟨hr, gatedOff_of_ungated s hg⟩, ?_⟩
      exact (readReg_sameOutside r _).fault.trans hs
    · intro ht h
      obtain ⟨r, ha, hr, hg⟩ := ofAddr_writable_ungated h
      refine ⟨_, step_write_allowed hs ht ha ⟨hr, gatedOff_of_ungated s hg⟩, ?_⟩
      exact (writeReg_sameOutside r d _).fault.trans hs

/-! ## Reads have no side effect (R66) -/

/-- Settles O20: a read that does not fault was permitted, and what it leaves differs at most by the byte and the draws. -/
theorem readsHaveNoSideEffect : Obligations.ReadsHaveNoSideEffect := by
  intro k s t hk h hh
  obtain ⟨r, e⟩ := exec_of_isRead hk
  obtain ⟨-, ⟨-, rfl⟩ | ⟨-, rfl⟩⟩ := rdStep_next (e s ▸ h)
  · refine ⟨?_, _, rfl⟩
    obtain same | ⟨w, drew⟩ := readReg_state r (s.setResult none)
    · rw [deliver, same]; rfl
    · rw [deliver, drew]; rfl
  · cases hh

end Sys2Proof.Machine
end

section
/-! PROOFS. The statements of 30_encoding.md: what the decoder answers to each word, said once as `Verdict`, from which the
agreement with the encoder, the invalid words and the rows of the opcode table follow. -/

namespace Sys2Proof

open Sys2Proof.Machine

/-! ## The fields of a word, joined and compared -/

theorem eq_stimWord (w : StimWord) : ∃ k a d, w = stimWord k a d := ⟨_, _, _, (stimWord_fields w).symm⟩

theorem stimWord_inj {k k' : BitVec 4} {a a' d d' : Byte} :
    stimWord k a d = stimWord k' a' d' ↔ k = k' ∧ a = a' ∧ d = d' := by
  constructor
  · intro h
    have hk := congrArg fieldK h
    have ha := congrArg fieldA h
    have hd := congrArg fieldD h
    simp only [fieldK_stimWord, fieldA_stimWord, fieldD_stimWord] at hk ha hd
    exact ⟨hk, ha, hd⟩
  · rintro ⟨rfl, rfl, rfl⟩
    rfl

theorem stimWord_and (k k' : BitVec 4) (a a' d d' : Byte) :
    stimWord k a d &&& stimWord k' a' d' = stimWord (k &&& k') (a &&& a') (d &&& d') := by
  change (k ++ a ++ d) &&& (k' ++ a' ++ d') = _
  rw [BitVec.and_append, BitVec.and_append]
  rfl

/-! ## A byte that holds a channel index (R82, R84) -/

@[simp] theorem decodeIndexed_byte (i : Chan) (mk : Chan → Instr) : decodeIndexed i.byte mk = .instr (mk i) := by
  cases i <;> rfl

theorem Chan.byte_lt (i : Chan) : i.byte.toNat < 2 := by cases i <;> decide

/-- A byte whose bits 7 to 1 are zero is a channel's. -/
theorem Chan.byte_ofBit {a : Byte} (h : a.extractLsb' 1 7 = 0#7) : (Chan.ofBit (a.getLsbD 0)).byte = a := by
  revert a
  decide +kernel

theorem two_le_of_index_ne_zero {a : Byte} (h : a.extractLsb' 1 7 ≠ 0#7) : 2 ≤ a.toNat := by
  revert a
  decide +kernel

/-! ## The decoder's verdict, word by word (R92) -/

/-- The kinds with a channel index: `PIN`, `SETCB`, `CALL`. -/
abbrev IndexedKind (k : BitVec 4) : Prop := k = 2#4 ∨ k = 5#4 ∨ k = 6#4

/-- The kinds with no field: `TICK`, `RESET`. -/
abbrev PlainKind (k : BitVec 4) : Prop := k = 3#4 ∨ k = 4#4

/-- Everything the decoder can answer, each answer with the words it is given for. -/
inductive Verdict : StimWord → Decoded → Prop where
  | read {r : Reg} {k : Instr} (h : r.readInstr = some k) : Verdict (stimWord 0#4 r.addr 0#8) (.instr k)
  | badRead {a : Byte} (h : (Reg.ofAddr a).bind Reg.readInstr = none) : Verdict (stimWord 0#4 a 0#8) (.badRead a)
  | readData {a d : Byte} (h : d ≠ 0#8) : Verdict (stimWord 0#4 a d) (.invalid .readData)
  | write {r : Reg} {d : Byte} {k : Instr} (h : r.writeInstr d = some k) : Verdict (stimWord 1#4 r.addr d) (.instr k)
  | badWrite {a d : Byte} (h : (Reg.ofAddr a).bind (Reg.writeInstr d) = none) : Verdict (stimWord 1#4 a d) (.badWrite a d)
  | pin (i : Chan) (p : Byte) : Verdict (stimWord 2#4 i.byte p) (.instr (.pin i p))
  | tick : Verdict (stimWord 3#4 0#8 0#8) (.instr .tick)
  | reset : Verdict (stimWord 4#4 0#8 0#8) (.instr .reset)
  | setcb (i : Chan) (c : Byte) : Verdict (stimWord 5#4 i.byte c) (.instr (.setcb i c))
  | call (i : Chan) (s : Byte) : Verdict (stimWord 6#4 i.byte s) (.instr (.call i s))
  | strayField {k : BitVec 4} {a d : Byte} (hk : PlainKind k) (h : ¬ (a = 0#8 ∧ d = 0#8)) :
    Verdict (stimWord k a d) (.invalid .strayField)
  | channelIndex {k : BitVec 4} {a d : Byte} (hk : IndexedKind k) (h : a.extractLsb' 1 7 ≠ 0#7) :
    Verdict (stimWord k a d) (.invalid .channelIndex)
  | reservedKind {k : BitVec 4} {a d : Byte} (hk : 7 ≤ k.toNat) : Verdict (stimWord k a d) (.invalid .reservedKind)

theorem verdict_decodeRead (a d : Byte) : Verdict (stimWord 0#4 a d) (decodeRead a d) := by
  unfold decodeRead
  split
  case isTrue hd =>
    subst hd
    split
    case h_1 k hk =>
      obtain ⟨r, ha, hr⟩ := Option.bind_eq_some_iff.1 hk
      obtain rfl := Reg.addr_of_ofAddr a r ha
      exact .read hr
    case h_2 hk => exact .badRead hk
  case isFalse hd => exact .readData hd

theorem verdict_decodeWrite (a d : Byte) : Verdict (stimWord 1#4 a d) (decodeWrite a d) := by
  unfold decodeWrite
  split
  case h_1 k hk =>
    obtain ⟨r, ha, hr⟩ := Option.bind_eq_some_iff.1 hk
    obtain rfl := Reg.addr_of_ofAddr a r ha
    exact .write hr
  case h_2 hk => exact .badWrite hk

theorem verdict_decodeIndexed {k : BitVec 4} (hk : IndexedKind k) (a : Byte) {d : Byte} {mk : Chan → Instr}
    (h : ∀ i, Verdict (stimWord k i.byte d) (.instr (mk i))) : Verdict (stimWord k a d) (decodeIndexed a mk) := by
  unfold decodeIndexed
  split
  case isTrue ha =>
    have hv := h (.ofBit (a.getLsbD 0))
    rwa [Chan.byte_ofBit ha] at hv
  case isFalse ha => exact .channelIndex hk ha

theorem verdict_decodePlain {k : BitVec 4} (hk : PlainKind k) (a d : Byte) {i : Instr}
    (h : Verdict (stimWord k 0#8 0#8) (.instr i)) : Verdict (stimWord k a d) (decodePlain a d i) := by
  unfold decodePlain
  split
  case isTrue hf =>
    obtain ⟨rfl, rfl⟩ := hf
    exact h
  case isFalse hf => exact .strayField hk hf

/-- The decoder's answer to any word is its verdict. -/
theorem verdict_decode (w : StimWord) : Verdict w (decode w) := by
  obtain ⟨k, a, d, rfl⟩ := eq_stimWord w
  have kind {n : BitVec 4} (h : k.toNat = n.toNat) : k = n := BitVec.eq_of_toNat_eq h
  unfold decode
  simp only [fieldK_stimWord, fieldA_stimWord, fieldD_stimWord]
  split
  case h_1 h => obtain rfl := kind (n := 0#4) h; exact verdict_decodeRead a d
  case h_2 h => obtain rfl := kind (n := 1#4) h; exact verdict_decodeWrite a d
  case h_3 h => obtain rfl := kind (n := 2#4) h; exact verdict_decodeIndexed (by decide) a fun i => .pin i d
  case h_4 h => obtain rfl := kind (n := 3#4) h; exact verdict_decodePlain (by decide) a d .tick
  case h_5 h => obtain rfl := kind (n := 4#4) h; exact verdict_decodePlain (by decide) a d .reset
  case h_6 h => obtain rfl := kind (n := 5#4) h; exact verdict_decodeIndexed (by decide) a fun i => .setcb i d
  case h_7 h => obtain rfl := kind (n := 6#4) h; exact verdict_decodeIndexed (by decide) a fun i => .call i d
  case h_8 => exact .reservedKind (by simp only [imp_false] at *; omega)

theorem verdict_of_decode {w : StimWord} {v : Decoded} (h : decode w = v) : Verdict w v := h ▸ verdict_decode w

/-! ## Decoding and encoding agree (R93) -/

theorem encode_readInstr {r : Reg} {k : Instr} (h : r.readInstr = some k) : encode k = stimWord 0#4 r.addr 0#8 := by
  cases r
  case start | rstreq | msel | ms | sec | min | seten => cases h; rfl
  all_goals
    rename_i i
    cases i <;> cases h <;> rfl

theorem encode_writeInstr {r : Reg} {d : Byte} {k : Instr} (h : r.writeInstr d = some k) :
    encode k = stimWord 1#4 r.addr d := by
  cases r
  case start | rstreq | msel | ms | sec | min | seten => cases h <;> rfl
  all_goals
    rename_i i
    cases i <;> cases h <;> rfl

theorem Verdict.encode_eq {w : StimWord} {k : Instr} (h : Verdict w (.instr k)) : encode k = w := by
  cases h with
  | read h => exact encode_readInstr h
  | write h => exact encode_writeInstr h
  | pin | tick | reset | setcb | call => rfl

theorem decode_encRead {a : Byte} {k : Instr} (h : (Reg.ofAddr a).bind Reg.readInstr = some k) :
    decode (encRead a) = .instr k := by
  rw [encRead, decode_readWord, decodeRead, if_pos rfl, h]

theorem decode_encWrite {a d : Byte} {k : Instr} (h : (Reg.ofAddr a).bind (Reg.writeInstr d) = some k) :
    decode (encWrite a d) = .instr k := by
  rw [encWrite, decode_writeWord, decodeWrite, h]

/-- The verdict of an instruction is given for its words. -/
theorem Verdict.decode_eq {w : StimWord} {k : Instr} (h : Verdict w (.instr k)) : decode w = .instr k := by
  cases h with
  | read h => exact decode_encRead (by rw [Reg.ofAddr_addr, Option.bind_some, h])
  | write h => exact decode_encWrite (by rw [Reg.ofAddr_addr, Option.bind_some, h])
  | pin | setcb | call => simp [decode]
  | tick | reset => rfl

/-- Settles O2: the address that `encode` gives a read or a write holds the register whose row it is, and the words of the five
other kinds are those of `Verdict`. -/
theorem decodeOfEncodeIsTheInstruction : Obligations.DecodeOfEncodeIsTheInstruction := by
  intro k
  cases k
  case pin i p => exact (Verdict.pin i p).decode_eq
  case tick => exact Verdict.tick.decode_eq
  case reset => exact Verdict.reset.decode_eq
  case setcb i c => exact (Verdict.setcb i c).decode_eq
  case call i s => exact (Verdict.call i s).decode_eq
  case rdStart | rdRstreq | rdMsel | rdMs | rdSec | rdMin | rdSeten => exact decode_encRead rfl
  case wrStart | wrRstreq | wrSeten => exact decode_encWrite rfl
  case rdData i | rdDir i | rdAfsel i | rdDen i | rdPull i | rdIs i | rdIbe i | rdIev i | rdRis i | rdMis i | rdIm i
      | rdClken i | rdPri i => cases i <;> exact decode_encRead rfl
  case wrDir i _ | wrAfsel i _ | wrDen i _ | wrPull i _ | wrIs i _ | wrIbe i _ | wrIev i _ | wrIcr i _ | wrIm i _
      | wrClken i _ | wrPri i _ => cases i <;> exact decode_encWrite rfl

/-- Settles O3: the decoder gives an instruction for its own word only. -/
theorem eachInstructionHasOneWord : Obligations.EachInstructionHasOneWord := fun _ _ h => (verdict_of_decode h).encode_eq

/-! ## The invalid words (R84, R85) -/

/-- The kind is reserved or a field that must be zero is not. -/
abbrev ReservedOrStray (k : BitVec 4) (a d : Byte) : Prop :=
  7 ≤ k.toNat ∨ (k = 0#4 ∧ d ≠ 0#8) ∨ (PlainKind k ∧ (a ≠ 0#8 ∨ d ≠ 0#8)) ∨ (IndexedKind k ∧ 2 ≤ a.toNat)

theorem Verdict.reservedOrStray {w : StimWord} {why : Invalid} (h : Verdict w (.invalid why)) :
    ReservedOrStray (fieldK w) (fieldA w) (fieldD w) := by
  cases h <;> simp only [fieldK_stimWord, fieldA_stimWord, fieldD_stimWord]
  case reservedKind hk => exact .inl hk
  case readData hd => exact .inr (.inl ⟨rfl, hd⟩)
  case strayField hk hf => exact .inr (.inr (.inl ⟨hk, not_and_or.1 hf⟩))
  case channelIndex hk ha => exact .inr (.inr (.inr ⟨hk, two_le_of_index_ne_zero ha⟩))

/-- The words with another verdict are of a kind in use, with their must-be-zero fields zero. -/
theorem Verdict.invalid_of_reservedOrStray {w : StimWord} {v : Decoded} (h : Verdict w v)
    (hs : ReservedOrStray (fieldK w) (fieldA w) (fieldD w)) : ∃ why, v = .invalid why := by
  cases h
  case readData | strayField | channelIndex | reservedKind => exact ⟨_, rfl⟩
  case read | badRead | write | badWrite | tick | reset => simp [ReservedOrStray, PlainKind, IndexedKind] at hs
  case pin i _ | setcb i _ | call i _ =>
    have small := Nat.not_le.2 i.byte_lt
    simp [ReservedOrStray, PlainKind, IndexedKind, small] at hs

/-- Settles O4: the invalid verdicts are those of R84 and R85, and no other verdict is given for such a word. -/
theorem invalidWordsAreReservedOrStray : Obligations.InvalidWordsAreReservedOrStray := by
  refine fun w => ⟨?_, (verdict_decode w).invalid_of_reservedOrStray⟩
  rintro ⟨why, h⟩
  exact (verdict_of_decode h).reservedOrStray

/-! ## The rows of the opcode table (R93) -/

open Laws.EncodingRow in
/-- The word of every instruction lies in its row, and the row is in the table. -/
theorem encodingRow : ∀ k : Instr, Statement k
  | .rdData i => rdData i
  | .rdDir i => rdDir i
  | .wrDir i d => wrDir i d
  | .rdAfsel i => rdAfsel i
  | .wrAfsel i d => wrAfsel i d
  | .rdDen i => rdDen i
  | .wrDen i d => wrDen i d
  | .rdPull i => rdPull i
  | .wrPull i d => wrPull i d
  | .rdIs i => rdIs i
  | .wrIs i d => wrIs i d
  | .rdIbe i => rdIbe i
  | .wrIbe i d => wrIbe i d
  | .rdIev i => rdIev i
  | .wrIev i d => wrIev i d
  | .rdRis i => rdRis i
  | .rdMis i => rdMis i
  | .wrIcr i d => wrIcr i d
  | .rdIm i => rdIm i
  | .wrIm i d => wrIm i d
  | .rdClken i => rdClken i
  | .wrClken i d => wrClken i d
  | .rdStart => rdStart
  | .wrStart d => wrStart d
  | .rdRstreq => rdRstreq
  | .wrRstreq d => wrRstreq d
  | .rdMsel => rdMsel
  | .rdMs => rdMs
  | .rdSec => rdSec
  | .rdMin => rdMin
  | .rdSeten => rdSeten
  | .wrSeten d => wrSeten d
  | .rdPri n => rdPri n
  | .wrPri n d => wrPri n d
  | .pin i p => pin i p
  | .tick => tick
  | .reset => reset
  | .setcb i c => setcb i c
  | .call i s => call i s

/-- A word that is decoded to an instruction lies in its row. -/
theorem row_has_of_decode {w : StimWord} {k : Instr} (h : decode w = .instr k) : k.row.has w = true := by
  rw [← eachInstructionHasOneWord w k h]
  exact (encodingRow k).1

/-- Two rows with a word in common prescribe alike every bit they both prescribe. -/
theorem Row.pattern_and_mask_of_has {r r' : Row} {w : StimWord} (h : r.has w = true) (h' : r'.has w = true) :
    r.pattern &&& r'.mask = r'.pattern &&& r.mask := by
  rw [Row.has, beq_iff_eq] at h h'
  rw [← h, ← h', BitVec.and_assoc, BitVec.and_assoc, BitVec.and_comm r.mask]

/-- "Rows are disjoint" (R92). -/
theorem opcodeRows_disjoint {r r' : Row} (hr : r ∈ opcodeRows) (hr' : r' ∈ opcodeRows) {w : StimWord} (h : r.has w = true)
    (h' : r'.has w = true) : r = r' := by
  have bits : ∀ p ∈ opcodeRows, ∀ q ∈ opcodeRows, p.pattern &&& q.mask = q.pattern &&& p.mask → p = q := by
    decide +kernel
  exact bits r hr r' hr' (Row.pattern_and_mask_of_has h h')

/-! ## The words of a row, field by field -/

theorem Row.has_stimWord {k pk mk : BitVec 4} {a pa ma d pd md : Byte} :
    Row.has ⟨stimWord pk pa pd, stimWord mk ma md⟩ (stimWord k a d) = true ↔
      k &&& mk = pk ∧ a &&& ma = pa ∧ d &&& md = pd := by
  rw [Row.has, beq_iff_eq, stimWord_and, stimWord_inj]

/-- The address bits that the row of a register prescribes: all but the one that stands for i or n (R93). -/
def Reg.rowMask : Reg → Byte
  | .start | .rstreq | .msel | .ms | .sec | .min | .seten => 0xFF#8
  | .pri _ => 0xFE#8
  | _ => 0xBF#8

theorem row_readInstr {r : Reg} {k : Instr} (h : r.readInstr = some k) :
    k.row = ⟨stimWord 0#4 (r.addr &&& r.rowMask) 0#8, stimWord 0xF#4 r.rowMask 0xFF#8⟩ := by
  cases r
  case start | rstreq | msel | ms | sec | min | seten => cases h; rfl
  all_goals
    rename_i i
    cases i <;> cases h <;> rfl

theorem row_writeInstr {r : Reg} {d : Byte} {k : Instr} (h : r.writeInstr d = some k) :
    k.row = ⟨stimWord 1#4 (r.addr &&& r.rowMask) 0#8, stimWord 0xF#4 r.rowMask 0x00#8⟩ := by
  cases r
  case start | rstreq | msel | ms | sec | min | seten => cases h <;> rfl
  all_goals
    rename_i i
    cases i <;> cases h <;> rfl

/-- The addresses in one row with that of a register hold registers with the same accesses: they differ in i or n only. -/
theorem Reg.addr_of_rowMask (r : Reg) {a : Byte} (h : a &&& r.rowMask = r.addr &&& r.rowMask) :
    ∃ q : Reg, q.addr = a ∧ readable q = readable r ∧ writable q = writable r := by
  have found : (Reg.ofAddr a).any (fun q => readable q == readable r && writable q == writable r) = true := by
    revert a
    cases r
    case start | rstreq | msel | ms | sec | min | seten => decide +kernel
    all_goals
      rename_i i
      cases i <;> decide +kernel
  obtain ⟨q, hq, hacc⟩ := Option.any_eq_true _ _ |>.1 found
  simp only [Bool.and_eq_true, beq_iff_eq] at hacc
  exact ⟨q, Reg.addr_of_ofAddr a q hq, hacc⟩

theorem readable_iff_readInstr {r : Reg} : readable r = true ↔ ∃ k, r.readInstr = some k := by
  cases r <;> simp [readable, Reg.readInstr]

theorem writable_iff_writeInstr {r : Reg} (d : Byte) : writable r = true ↔ ∃ k, r.writeInstr d = some k := by
  cases r <;> simp [writable, Reg.writeInstr]

theorem kind_and_mask (n : BitVec 4) : n &&& 0xF#4 = n := BitVec.and_allOnes

/-- The words of a row that prescribes the kind and `A[7:1]`. -/
theorem fields_of_indexedRow {n m : BitVec 4} {a d : Byte}
    (h : Row.has ⟨stimWord m 0x00#8 0x00#8, stimWord 0xF#4 0xFE#8 0x00#8⟩ (stimWord n a d) = true) :
    n = m ∧ ∃ i : Chan, i.byte = a := by
  have index : ∀ b : Byte, b &&& 0xFE#8 = 0x00#8 → b.extractLsb' 1 7 = 0#7 := by decide +kernel
  rw [Row.has_stimWord, kind_and_mask] at h
  obtain ⟨hn, ha, -⟩ := h
  exact ⟨hn, _, Chan.byte_ofBit (index a ha)⟩

/-- The one word of a row that prescribes every bit. -/
theorem eq_pattern_of_fullRow {p w : StimWord} (h : Row.has ⟨p, 0xFFFFF#20⟩ w = true) : w = p := by
  rw [Row.has, beq_iff_eq] at h
  exact BitVec.and_allOnes.symm.trans h

/-- A word in the row of an instruction is decoded to an instruction. -/
theorem decode_of_row_has {k : Instr} {w : StimWord} (hw : k.row.has w = true) : ∃ j, decode w = .instr j := by
  suffices h : ∃ j, Verdict w (.instr j) from h.imp fun _ => Verdict.decode_eq
  obtain ⟨n, a, d, rfl⟩ := eq_stimWord w
  have hk := verdict_of_decode (decodeOfEncodeIsTheInstruction k)
  generalize encode k = u at hk
  cases hk
  case read r hr =>
    rw [row_readInstr hr, Row.has_stimWord, kind_and_mask] at hw
    obtain ⟨rfl, ha, hd⟩ := hw
    obtain rfl : d = 0#8 := BitVec.and_allOnes.symm.trans hd
    obtain ⟨q, rfl, hq, -⟩ := r.addr_of_rowMask ha
    obtain ⟨j, hj⟩ := readable_iff_readInstr.1 (hq.trans (readable_iff_readInstr.2 ⟨k, hr⟩))
    exact ⟨j, .read hj⟩
  case write r c hr =>
    rw [row_writeInstr hr, Row.has_stimWord, kind_and_mask] at hw
    obtain ⟨rfl, ha, -⟩ := hw
    obtain ⟨q, rfl, -, hq⟩ := r.addr_of_rowMask ha
    obtain ⟨j, hj⟩ := (writable_iff_writeInstr d).1 (hq.trans ((writable_iff_writeInstr c).2 ⟨k, hr⟩))
    exact ⟨j, .write hj⟩
  case pin => obtain ⟨rfl, i, rfl⟩ := fields_of_indexedRow (m := 2#4) hw; exact ⟨_, .pin i d⟩
  case setcb => obtain ⟨rfl, i, rfl⟩ := fields_of_indexedRow (m := 5#4) hw; exact ⟨_, .setcb i d⟩
  case call => obtain ⟨rfl, i, rfl⟩ := fields_of_indexedRow (m := 6#4) hw; exact ⟨_, .call i d⟩
  case tick => rw [eq_pattern_of_fullRow (p := stimWord 3#4 0#8 0#8) hw]; exact ⟨_, .tick⟩
  case reset => rw [eq_pattern_of_fullRow (p := stimWord 4#4 0#8 0#8) hw]; exact ⟨_, .reset⟩

/-! ## The words that match no row (R86, R92) -/

theorem fieldA_of_low (w : StimWord) : (w.extractLsb' 0 16).extractLsb' 8 8 = fieldA w :=
  BitVec.extractLsb'_extractLsb'_of_le (by decide)

theorem fieldD_of_low (w : StimWord) : (w.extractLsb' 0 16).extractLsb' 0 8 = fieldD w :=
  BitVec.extractLsb'_extractLsb'_of_le (by decide)

theorem index_fieldA (w : StimWord) : (fieldA w).extractLsb' 1 7 = w.extractLsb' 9 7 := by
  ext i hi
  simp [fieldA, show 1 + i < 8 by omega, show 8 + (1 + i) = 9 + i by omega]

theorem fieldD_of_wordReadOk {w : StimWord} (h : wordReadOk w = true) (hk : fieldK w = 0#4) : fieldD w = 0#8 := by
  change (fieldK w != 0#4 || fieldD w == 0#8) = true at h
  simpa [hk] using h

theorem fields_of_wordPlainOk {w : StimWord} (h : wordPlainOk w = true) (hk : PlainKind (fieldK w)) :
    fieldA w = 0#8 ∧ fieldD w = 0#8 := by
  change (fieldK w != 3#4 && fieldK w != 4#4 || w.extractLsb' 0 16 == 0#16) = true at h
  have low : w.extractLsb' 0 16 = 0#16 := by obtain hk | hk := hk <;> simpa [hk] using h
  rw [← fieldA_of_low, ← fieldD_of_low, low]
  decide

theorem fieldA_of_wordIndexOk {w : StimWord} (h : wordIndexOk w = true) (hk : IndexedKind (fieldK w)) :
    (fieldA w).toNat < 2 := by
  change (fieldK w != 2#4 && fieldK w != 5#4 && fieldK w != 6#4 || w.extractLsb' 9 7 == 0#7) = true at h
  have index : (fieldA w).extractLsb' 1 7 = 0#7 := by
    rw [index_fieldA]
    obtain hk | hk | hk := hk <;> simpa [hk] using h
  rw [← Chan.byte_ofBit index]
  exact Chan.byte_lt _

/-- The check of well-formedness refuses the words of R84 and R85. -/
theorem not_reservedOrStray_of_wordOk {w : StimWord} (h : wordOk w = true) :
    ¬ ReservedOrStray (fieldK w) (fieldA w) (fieldD w) := by
  simp only [wordOk, Bool.and_eq_true] at h
  obtain ⟨⟨⟨hkind, hread⟩, hplain⟩, hindex⟩ := h
  rintro (reserved | ⟨hk, hd⟩ | ⟨hk, hf⟩ | ⟨hk, ha⟩)
  · exact absurd (of_decide_eq_true hkind) (Nat.not_lt.2 reserved)
  · exact hd (fieldD_of_wordReadOk hread hk)
  · exact not_and_or.2 hf (fields_of_wordPlainOk hplain hk)
  · exact absurd (fieldA_of_wordIndexOk hindex hk) (Nat.not_lt.2 ha)

/-- Settles O5: matching a row and being decoded to an instruction are the same, the rows are disjoint, and the well-formed words
left over are the illegal accesses. -/
theorem decoderReadsTheOpcodeTable : Obligations.DecoderReadsTheOpcodeTable := by
  have unique {w : StimWord} {i : Instr} (hd : decode w = .instr i) {r : Row} (hr : r ∈ opcodeRows) (hw : r.has w = true) :
      r = i.row := opcodeRows_disjoint hr (encodingRow i).2 hw (row_has_of_decode hd)
  refine ⟨fun w r hr hw => ?_, fun w i hd => ⟨row_has_of_decode hd, (encodingRow i).2, fun r => unique hd⟩,
    fun w hok hno => ?_⟩
  · obtain ⟨k, -, rfl⟩ := List.mem_map.1 hr
    obtain ⟨i, hi⟩ := decode_of_row_has hw
    exact ⟨i, hi, (unique hi hr hw).symm⟩
  · cases hd : decode w with
    | instr i => exact absurd (row_has_of_decode hd) (by simp [hno _ (encodingRow i).2])
    | badRead a => cases verdict_of_decode hd; exact .inl (by simp)
    | badWrite a d => cases verdict_of_decode hd; exact .inr (by simp)
    | invalid why => exact absurd (verdict_of_decode hd).reservedOrStray (not_reservedOrStray_of_wordOk hok)

/-! ## Words written out from the table -/

/-- Settles O1: each word is decoded by evaluation. -/
theorem sampleWordsDecode : Obligations.SampleWordsDecode := by
  unfold Obligations.SampleWordsDecode
  decide

end Sys2Proof

namespace Sys2Proof.Machine

/-! ## An invalid word at the boundary (R92) -/

theorem presentWord_invalid {w : StimWord} {why : Invalid} (h : decode w = .invalid why) (s : State) :
    presentWord w s = .refused (.invalidWord why) := by simp [presentWord, h]

/-- Settles O7: presenting an invalid word is refused, and a refusal is not passed over. -/
theorem invalidWordIsRefused : Obligations.InvalidWordIsRefused := by
  intro s w rest why ht hd
  rw [step_stim ht, presentWord_invalid hd, passOver_refused]

end Sys2Proof.Machine
end

section
/-! PROOFS. The statements of 40_edge_channel_registers.md. An access to a register behind a port clock is the register's own
read or write with the clock on and a BusError with it off. That is said once for each kind of access, and so each statement
comes down to what `readReg` or `writeReg` does with its registers. -/

namespace Sys2Proof.Machine

open Sys2Proof.Safety

/-! ## An access behind a port clock (20_memory.md R69) -/

theorem gatedOff_of_clocked {r : Reg} {i : Chan} {s : State} (h : gateOf r = some i) (hc : (s.eic.get i).clken = true) :
    gatedOff r s = false := by simp [gatedOff, h, hc]

section
variable {r : Reg} {i : Chan} {s : State} {k : Instr} (hs : healthy s) (hg : gateOf r = some i)
include hs hg

theorem exec_read_clocked (hk : r.readInstr = some k) (hc : (s.eic.get i).clken = true) :
    exec k s = .next (deliver (readReg r (s.setResult none))) := by
  have allowed : allowedRead r s := ⟨readable_iff_readInstr.2 ⟨k, hk⟩, gatedOff_of_clocked hg hc⟩
  rw [exec_readInstr hk, rdStep_allowed hs allowed]

theorem exec_read_unclocked (hk : r.readInstr = some k) (hc : (s.eic.get i).clken = false) :
    exec k s = .next (s.raise (.busError r.addr .read)) := by
  have barred : ¬ allowedRead r s := fun h => absurd h.2 (by simp [gatedOff_of_gateOf hg hc])
  rw [exec_readInstr hk, rdStep_barred hs barred]

theorem exec_write_clocked {d : Byte} (hk : r.writeInstr d = some k) (hc : (s.eic.get i).clken = true) :
    exec k s = .next (writeReg r d (s.setResult none)) := by
  have allowed : allowedWrite r s := ⟨(writable_iff_writeInstr d).2 ⟨k, hk⟩, gatedOff_of_clocked hg hc⟩
  rw [exec_writeInstr hk, wrStep_allowed d hs allowed]

theorem exec_write_unclocked {d : Byte} (hk : r.writeInstr d = some k) (hc : (s.eic.get i).clken = false) :
    exec k s = .next (s.raise (.busError r.addr .write)) := by
  have barred : ¬ allowedWrite r s := fun h => absurd h.2 (by simp [gatedOff_of_gateOf hg hc])
  rw [exec_writeInstr hk, wrStep_barred d hs barred]

end

/-! ## The shapes of effect that several rows share -/

/-- The register stands at an offset of a channel, behind the channel's port clock (R62, R69). -/
structure GatedAt (r : Reg) (i : Chan) (off : Byte) : Prop where
  addr_eq : r.addr = chanBase i + off
  gate_eq : gateOf r = some i

section
variable {reg : Chan → Reg} {off : Byte} (hr : ∀ i, GatedAt (reg i) i off)
include hr

/-- A gated row whose register reads as `val` and makes no draw. -/
theorem readsAs_of_readReg {k : Chan → Instr} {val : Channel → Byte} (hk : ∀ i, (reg i).readInstr = some (k i))
    (hv : ∀ i s, readReg (reg i) s = (val (s.eic.get i), s)) : ReadsAs k off val := by
  refine fun i s hs => ⟨fun hc => ?_, fun hc => ?_⟩
  · rw [exec_read_clocked hs (hr i).gate_eq (hk i) hc, hv]
    rfl
  · rw [exec_read_unclocked hs (hr i).gate_eq (hk i) hc, (hr i).addr_eq]
    rfl

variable {k : Chan → Byte → Instr} {put : Channel → Byte → Channel} (hk : ∀ i d, (reg i).writeInstr d = some (k i d))
include hk

/-- A gated row whose register's write is an update of its channel. -/
theorem writesAs_of_writeReg (hw : ∀ i d s, writeReg (reg i) d s = s.updEic i (put · d)) : WritesAs k off put := by
  refine fun i d s hs => ⟨fun hc => ?_, fun hc => ?_⟩
  · rw [exec_write_clocked hs (hr i).gate_eq (hk i d) hc, hw]
    rfl
  · rw [exec_write_unclocked hs (hr i).gate_eq (hk i d) hc, (hr i).addr_eq]
    rfl

/-- A gated row whose register's write is a configuration write: its flags are those of `risAfterConfig` (R35 (b)). -/
theorem configWritesAs_of_writeReg {get : Channel → Byte}
    (hw : ∀ i d s, writeReg (reg i) d s = configWrite i get (put · d) d s) : ConfigWritesAs k off get put := by
  refine fun i d s hs => ⟨fun hc => ?_, fun hc => ?_⟩
  · refine ⟨risAfterConfig (s.eic.get i).ris (get (s.eic.get i) ^^^ d) (s.drawn (.eic i)), ?_,
      fun b hb => risAfterConfig_bit _ _ _ _ hb⟩
    rw [exec_write_clocked hs (hr i).gate_eq (hk i d) hc, hw]
    rfl
  · rw [exec_write_unclocked hs (hr i).gate_eq (hk i d) hc, (hr i).addr_eq]
    rfl

end

/-! ## The reads -/

/-- Settles O14: each of the ten registers reads as its field of the channel, `MIS` as `RIS & IM`. -/
theorem channelReadsDeliverTheRegister : Obligations.ChannelReadsDeliverTheRegister :=
  ⟨readsAs_of_readReg (reg := .dir) (fun _ => ⟨rfl, rfl⟩) (fun _ => rfl) fun _ _ => rfl,
    readsAs_of_readReg (reg := .afsel) (fun _ => ⟨rfl, rfl⟩) (fun _ => rfl) fun _ _ => rfl,
    readsAs_of_readReg (reg := .den) (fun _ => ⟨rfl, rfl⟩) (fun _ => rfl) fun _ _ => rfl,
    readsAs_of_readReg (reg := .pull) (fun _ => ⟨rfl, rfl⟩) (fun _ => rfl) fun _ _ => rfl,
    readsAs_of_readReg (reg := .sense) (fun _ => ⟨rfl, rfl⟩) (fun _ => rfl) fun _ _ => rfl,
    readsAs_of_readReg (reg := .ibe) (fun _ => ⟨rfl, rfl⟩) (fun _ => rfl) fun _ _ => rfl,
    readsAs_of_readReg (reg := .iev) (fun _ => ⟨rfl, rfl⟩) (fun _ => rfl) fun _ _ => rfl,
    readsAs_of_readReg (reg := .ris) (fun _ => ⟨rfl, rfl⟩) (fun _ => rfl) fun _ _ => rfl,
    readsAs_of_readReg (reg := .mis) (fun _ => ⟨rfl, rfl⟩) (fun _ => rfl) fun _ _ => rfl,
    readsAs_of_readReg (reg := .im) (fun _ => ⟨rfl, rfl⟩) (fun _ => rfl) fun _ _ => rfl⟩

/-- `DATA` shows the level of a digital-in pin (R34). -/
theorem dataView_digIn (c : Channel) (x : Byte) {b : Nat} (hb : b < 8) (h : digInAt c b) :
    (dataView c x).getLsbD b = c.pin.getLsbD b := by
  rw [dataView, pick_bit _ _ _ b hb, if_pos ((digIn_bit c hb).2 h)]

/-- `DATA` shows the drawn bit for any other pin. -/
theorem dataView_not_digIn (c : Channel) (x : Byte) {b : Nat} (hb : b < 8) (h : ¬ digInAt c b) :
    (dataView c x).getLsbD b = x.getLsbD b := by
  rw [dataView, pick_bit _ _ _ b hb, if_neg (fun e => h ((digIn_bit c hb).1 e))]

/-- Settles O15: `DATA` reads as `dataView`, bit by bit, with one draw made. -/
theorem dataReadShowsLivePinLevels : Obligations.DataReadShowsLivePinLevels := by
  have gate (i : Chan) : gateOf (.data i) = some i := rfl
  refine fun i s hs => ⟨fun hc => ?_, fun hc => exec_read_unclocked hs (gate i) rfl hc⟩
  exact ⟨dataView (s.eic.get i) (s.drawn (.eic i)), exec_read_clocked hs (gate i) rfl hc,
    fun b hb => ⟨dataView_digIn _ _ hb, dataView_not_digIn _ _ hb⟩⟩

/-! ## The writes -/

/-- Settles O17: each of the six registers is written by a configuration write of its own field. -/
theorem configurationWritesDrawChangedFlags : Obligations.ConfigurationWritesDrawChangedFlags :=
  ⟨configWritesAs_of_writeReg (reg := .dir) (fun _ => ⟨rfl, rfl⟩) (fun _ _ => rfl) fun _ _ _ => rfl,
    configWritesAs_of_writeReg (reg := .afsel) (fun _ => ⟨rfl, rfl⟩) (fun _ _ => rfl) fun _ _ _ => rfl,
    configWritesAs_of_writeReg (reg := .den) (fun _ => ⟨rfl, rfl⟩) (fun _ _ => rfl) fun _ _ _ => rfl,
    configWritesAs_of_writeReg (reg := .sense) (fun _ => ⟨rfl, rfl⟩) (fun _ _ => rfl) fun _ _ _ => rfl,
    configWritesAs_of_writeReg (reg := .ibe) (fun _ => ⟨rfl, rfl⟩) (fun _ _ => rfl) fun _ _ _ => rfl,
    configWritesAs_of_writeReg (reg := .iev) (fun _ => ⟨rfl, rfl⟩) (fun _ _ => rfl) fun _ _ _ => rfl⟩

/-- Settles O18: the writes of `PULL` and `IM` update one field of the channel, and not its flags. -/
theorem pullAndMaskWritesOnlyStore : Obligations.PullAndMaskWritesOnlyStore :=
  ⟨writesAs_of_writeReg (reg := .pull) (fun _ => ⟨rfl, rfl⟩) (fun _ _ => rfl) fun _ _ _ => rfl,
    writesAs_of_writeReg (reg := .im) (fun _ => ⟨rfl, rfl⟩) (fun _ _ => rfl) fun _ _ _ => rfl⟩

/-- A write of `ICR` changes its channel's flags and nothing else (R117). -/
theorem wrIcr_writesAs : WritesAs .wrIcr 0x0A#8 (fun c d => { c with ris := risAfterAck c.ris d }) :=
  writesAs_of_writeReg (reg := .icr) (fun _ => ⟨rfl, rfl⟩) (fun _ _ => rfl) fun _ _ _ => rfl

/-- Settles O19: the flags after the acknowledge are those of `risAfterAck`, bit by bit. -/
theorem acknowledgeClearsTheNamedFlags : Obligations.AcknowledgeClearsTheNamedFlags := by
  intro i d s hs
  obtain ⟨on, off⟩ := wrIcr_writesAs i d s hs
  exact ⟨fun hc => ⟨_, on hc, fun b hb => risAfterAck_bit _ _ hb⟩, off⟩

/-- Settles O16: no clock gates `CLKEN`, so both accesses are permitted in every state with no fault. -/
theorem clockEnableIsNeverGated : Obligations.ClockEnableIsNeverGated := by
  intro i d s hs
  have ungated : gatedOff (.clken i) s = false := gatedOff_of_ungated s rfl
  constructor
  · rw [exec_readInstr (r := .clken i) rfl, rdStep_allowed hs ⟨rfl, ungated⟩]
    rfl
  · rw [exec_writeInstr (r := .clken i) (d := d) rfl, wrStep_allowed d hs ⟨rfl, ungated⟩]
    rfl

end Sys2Proof.Machine
end

section
/-! PROOFS. The statements of 41_edge_channel_operation.md. The invariant of the agents; the stimuli `PIN`, `SETCB` and `CALL`,
and the separation of the channels; then the software agents: one turn of a handler and of `READSTATUS`, and the undisturbed runs
of `HANDLER` and `INIT`, put together from their single steps. -/

namespace Sys2Proof.Machine

open Sys2Proof.Safety

/-! ## The invariant of the agents

It speaks of the agents' positions only. Every stimulus but `RESET` keeps them, and each kind of turn moves one position by a
rule of its own. -/

/-- The agents stand in t where they stand in s: all the agent invariant speaks of. -/
structure SameAgents (s t : State) : Prop where
  phase : ∀ j, (t.handlers.get j).phase = (s.handlers.get j).phase
  main : t.main = s.main

theorem SameAgents.of_sameOutside {s t : State} (h : SameOutside s t) : SameAgents s t :=
  ⟨fun j => by rw [h.handlers], h.main⟩

theorem SameAgents.of_exec {k : Instr} {s t : State} (h : exec k s = .next t) (hk : k ≠ .reset) : SameAgents s t := by
  obtain ⟨hphase, hmain, -⟩ := exec_keeps_agents h hk
  exact ⟨hphase, hmain⟩

/-- A stimulus whose action moves no agent moves none: a fault raised moves none either (R205). -/
theorem SameAgents.of_stimulus {act : State → Except FaultRec State} {s t : State} (h : stimulus s act = .next t)
    (ha : act (s.setResult none) = .ok t → SameOutside (s.setResult none) t) : SameAgents s t := by
  obtain ⟨-, h | ⟨f, -, rfl⟩⟩ := stimulus_next h
  · obtain ⟨hphase, hmain⟩ := SameAgents.of_sameOutside (ha h)
    exact ⟨hphase, hmain⟩
  · exact ⟨fun _ => rfl, rfl⟩

/-- A word presented at the boundary resets the machine or moves no agent. -/
theorem presentWord_agents {w : StimWord} {s t : State} (h : presentWord w s = .next t) :
    t = s.resetAll ∨ SameAgents s t := by
  obtain ⟨k, -, hk⟩ | ⟨a, -, ha⟩ | ⟨a, d, -, ha⟩ := presentWord_next h
  · by_cases hr : k = .reset
    · subst hr
      cases hk
      exact .inl rfl
    · exact .inr (.of_exec hk hr)
  · refine .inr (.of_stimulus ha fun hok => ?_)
    obtain ⟨q, hq, rfl⟩ := memRead_deliver hok
    exact sameOutside_setResult _ (memRead_sameOutside hq)
  · exact .inr (.of_stimulus ha memWrite_sameOutside)

/-! ### How each kind of move keeps the invariant -/

section
variable {p : Params} {s t : State}

theorem SameAgents.inProgress_eq (h : SameAgents s t) (j : Chan) : inProgress j t = inProgress j s := by
  rw [inProgress, h.phase, inProgress]

theorem SameAgents.agentInv (h : SameAgents s t) (hi : AgentInv p s) : AgentInv p t := by
  obtain ⟨hphase, hmain, hboth⟩ := hi
  exact ⟨fun j => by rw [h.phase]; exact hphase j, by rw [h.main]; exact hmain,
    fun hp => hboth fun j => by rw [← h.inProgress_eq]; exact hp j⟩

theorem agentInv_resetAll (p : Params) (s : State) : AgentInv p s.resetAll :=
  ⟨fun j => by cases j <;> trivial, trivial, fun hp => Bool.noConfusion (hp .c0)⟩

theorem agentInv_setMain {m : MainPhase} (hi : AgentInv p s) (hm : MainOk m) : AgentInv p (s.setMain m) := by
  obtain ⟨hphase, -, hboth⟩ := hi
  exact ⟨hphase, hm, hboth⟩

/-- A handler may be moved to a legal position, and into its invocation where nothing bars it: where the other handler is in
progress too, it was let in by `preempts` (R214). -/
theorem agentInv_setPhase {i : Chan} {ph : Phase} (hi : AgentInv p s) (hph : PhaseOk p i ph)
    (hfree : ph.between = true → handlerFree p i s = true) : AgentInv p (s.setPhase i ph) := by
  obtain ⟨hphase, hmain, -⟩ := hi
  refine ⟨fun j => ?_, hmain, fun hp => ⟨i, ?_⟩⟩
  · rw [State.setPhase_handlers, PerChan.get_set]
    split
    · subst_vars; exact hph
    · exact hphase j
  · have between : ph.between = true := by simpa [inProgress] using hp i
    have other : inProgress i.other s = true := by simpa [inProgress] using hp i.other
    simpa [handlerFree, other] using hfree between

/-- H1 with no monitored pin pending ends the invocation (R147). -/
theorem handlerNext_spurious {i : Chan} {got : Byte} (h : got &&& p.mask.get i = 0#8) :
    handlerNext p i got .entered = .idle := if_pos h

/-- H1 with a monitored pin pending goes on to H2 (R145). -/
theorem handlerNext_pending {i : Chan} {got : Byte} (h : got &&& p.mask.get i ≠ 0#8) :
    handlerNext p i got .entered = .tested (got &&& p.mask.get i) := if_neg h

/-- The next position of an invocation is legal: its locals are masked as it takes them (R145), and it goes past its test only
with a monitored pin pending (R147). -/
theorem phaseOk_handlerNext {i : Chan} (got : Byte) {ph : Phase} (h : PhaseOk p i ph) :
    PhaseOk p i (handlerNext p i got ph) := by
  have masked (m : Byte) : got &&& m &&& ~~~m = 0#8 := by rw [BitVec.and_assoc, BitVec.and_not_self]; exact BitVec.and_zero
  cases ph with
  | idle => trivial
  | entered =>
    by_cases hz : got &&& p.mask.get i = 0#8
    · rw [handlerNext_spurious hz]
      trivial
    · rw [handlerNext_pending hz]
      exact ⟨hz, masked _⟩
  | tested m =>
    obtain ⟨hne, hm⟩ := h
    exact ⟨hne, hm, masked _⟩
  | sampled m st => exact h
  | called m st => trivial

/-- The main line after a stimulus of its `INIT` stands at one of the positions 1 to 20 or in none. -/
theorem agentInv_initNext {i : Chan} {c b : Byte} {n : Nat} (hi : AgentInv p s) : AgentInv p (initNext i c n b s) := by
  refine agentInv_setMain hi ?_
  split
  · exact ⟨by omega, by omega⟩
  · trivial

/-- An agent's stimulus keeps the invariant where what the agent does after it keeps it. -/
theorem agentTurn_agentInv {may : Bool} {k : Instr} {after : State → State} (h : agentTurn may k after s = .next t)
    (hk : k ≠ .reset) (hi : AgentInv p s)
    (ha : ∀ u, may = true → SameAgents s u → AgentInv p u → AgentInv p (after u)) : AgentInv p t := by
  obtain ⟨-, -, rfl⟩ | ⟨hmay, u, hu, rfl⟩ := agentTurn_next h
  · exact hi
  · have same := SameAgents.of_exec hu hk
    split
    · exact ha u hmay same (same.agentInv hi)
    · exact same.agentInv hi

theorem handlerTurn_agentInv {i : Chan} (h : handlerTurn p i s = .next t) (hi : AgentInv p s) : AgentInv p t := by
  obtain ⟨-, rfl⟩ | ⟨-, -, -, -, rfl⟩ | ⟨hfree, k, u, hk, hu, rfl⟩ := handlerTurn_next h
  · exact hi
  · exact agentInv_setPhase hi trivial fun hb => Bool.noConfusion hb
  · have same := SameAgents.of_exec hu (handlerInstr_ne_reset hk)
    split
    · refine agentInv_setPhase (same.agentInv hi) (phaseOk_handlerNext _ (hi.1 i)) fun _ => ?_
      rwa [handlerFree, same.inProgress_eq]
    · exact same.agentInv hi

theorem mainTurn_agentInv (h : mainTurn p s = .next t) (hi : AgentInv p s) : AgentInv p t := by
  obtain ⟨-, rfl⟩ | ⟨-, i, c, n, b, k, u, -, hk, hu, rfl⟩ := mainTurn_next h
  · exact hi
  · have kept := (SameAgents.of_exec hu (initInstr_ne_reset hk)).agentInv hi
    split
    · exact agentInv_initNext kept
    · exact kept

/-- Every entry of the schedule keeps the invariant. -/
theorem takeTurn_agentInv {u : Turn} (h : takeTurn p u s = .next t) (hi : AgentInv p s) : AgentInv p t := by
  cases u with
  | stim w =>
    obtain rfl | same := presentWord_agents h
    · exact agentInv_resetAll p s
    · exact same.agentInv hi
  | init i c => exact agentTurn_agentInv h nofun hi fun _ _ _ hu => agentInv_initNext hu
  | main => exact mainTurn_agentInv h hi
  | readStatus a i => exact agentTurn_agentInv h nofun hi fun _ _ _ hu => hu
  | handler i => exact handlerTurn_agentInv h hi

end

/-- Settles O53: a step takes a turn, which keeps the invariant whatever its kind, or moves no agent. -/
theorem stepKeepsTheAgentInvariant : Obligations.StepKeepsTheAgentInvariant := by
  intro s t hi h
  cases hts : s.turns with
  | nil =>
    cases (step_nil hts).symm.trans h
    exact hi
  | cons u rest =>
    have hi' : AgentInv Config.params { s with turns := rest } := hi
    obtain h | ⟨-, rfl⟩ := step_cons_next hts h
    · exact takeTurn_agentInv h hi'
    · exact hi'
/-! ## The stimuli `PIN`, `SETCB` and `CALL` (R140 to R142) -/

/-- Settles O21: the flags after the event are those of `risAfterPin`, bit by bit, and the pins' channel makes one draw. -/
theorem pinEventSetsRisingFlags : Obligations.PinEventSetsRisingFlags := by
  intro i p s hs
  refine ⟨risAfterPin (s.eic.get i) p (s.drawn (.eic i)), ?_,
    fun b hb => ⟨risAfterPin_armed _ _ _ hb, risAfterPin_unarmed _ _ _ hb⟩⟩
  rw [exec_pin, stimulus_healthy hs]
  rfl

theorem registerCallback_stored {p : Params} {c : Byte} (h : c ≠ 0#8 ∨ p.hardenedInit = false) (i : Chan) (s : State) :
    registerCallback p i c s = .ok (s.setSlot i (slotOf c)) := by
  refine if_neg fun hc => ?_
  simp only [Bool.and_eq_true, beq_iff_eq] at hc
  obtain ⟨hard, null⟩ := hc
  obtain hne | soft := h
  · exact hne null
  · simp [soft] at hard

theorem registerCallback_turnedAway {p : Params} (h : p.hardenedInit = true) (i : Chan) (s : State) :
    registerCallback p i 0#8 s = .error (.invalidCallback i) := if_pos (by simp [h])

/-- A registration that is not turned away fills the slot (R141). -/
theorem exec_setcb_stored {i : Chan} {c : Byte} {s : State} (hs : healthy s)
    (h : c ≠ 0#8 ∨ Config.params.hardenedInit = false) :
    exec (.setcb i c) s = .next ((s.setResult none).setSlot i (slotOf c)) := by
  rw [exec_setcb, stimulus_healthy hs, registerCallback_stored h, settle_ok]

/-- Settles O26: only the null identifier under `HARDENED_INIT` is turned away, and the slot of an identifier is none exactly
for the null one. -/
theorem setcbFillsTheSlot : Obligations.SetcbFillsTheSlot := by
  intro i c s hs
  constructor
  · intro hc
    rw [exec_setcb_stored hs (.inl hc), slotOf, if_neg hc]
    rfl
  · cases hard : Config.params.hardenedInit with
    | false => exact exec_setcb_stored hs (.inr hard)
    | true => rw [exec_setcb, stimulus_healthy hs, registerCallback_turnedAway hard, settle_error]; rfl

theorem callSlot_none {p : Params} {i : Chan} {s : State} (h : (s.handlers.get i).cb = none) (st : Byte) :
    callSlot p i st s = .error (.invalidCallback i) := by
  simp only [callSlot, h]

theorem callSlot_some {p : Params} {i : Chan} {s : State} {c : Byte} (h : (s.handlers.get i).cb = some c) (st : Byte) :
    callSlot p i st s = callbackRun p i c st s := by
  simp only [callSlot, h]

/-- A `CALL` that finds the slot empty raises InvalidCallback (R142). -/
theorem exec_call_empty {i : Chan} {s : State} (hs : healthy s) (hc : (s.handlers.get i).cb = none) (st : Byte) :
    exec (.call i st) s = .next (s.raise (.invalidCallback i)) := by
  have hc' : ((s.setResult none).handlers.get i).cb = none := hc
  rw [exec_call, stimulus_healthy hs, callSlot_none hc', settle_error]

/-- Settles O28: the slot is read first, and its fault is raised on the state before. -/
theorem callOfEmptySlotFaults : Obligations.CallOfEmptySlotFaults :=
  fun _ st _ hs hc => exec_call_empty hs hc st

/-! ## The separation of the channels (R149) -/

/-- From s to t nothing changes outside channel i, its handler and the model's own fields. -/
structure OnlyChannel (i : Chan) (s t : State) : Prop where
  eic : t.eic.get i.other = s.eic.get i.other
  handlers : t.handlers.get i.other = s.handlers.get i.other
  pta : t.pta = s.pta
  intc : t.intc = s.intc
  dsp : t.dsp = s.dsp
  main : t.main = s.main

theorem OnlyChannel.refl (i : Chan) (s : State) : OnlyChannel i s s := ⟨rfl, rfl, rfl, rfl, rfl, rfl⟩

theorem OnlyChannel.of_setResult {i : Chan} {s t : State} {r : Option Byte} (h : OnlyChannel i (s.setResult r) t) :
    OnlyChannel i s t := ⟨h.eic, h.handlers, h.pta, h.intc, h.dsp, h.main⟩

/-- A draw is no state of the block. -/
theorem OnlyChannel.afterDraw {i : Chan} {s t : State} (h : OnlyChannel i s t) (w : DrawSite) :
    OnlyChannel i s (t.afterDraw w) := ⟨h.eic, h.handlers, h.pta, h.intc, h.dsp, h.main⟩

/-- Nor is the byte delivered. -/
theorem OnlyChannel.setResult {i : Chan} {s t : State} (h : OnlyChannel i s t) (r : Option Byte) :
    OnlyChannel i s (t.setResult r) := ⟨h.eic, h.handlers, h.pta, h.intc, h.dsp, h.main⟩

theorem onlyChannel_raise (i : Chan) (s : State) (f : FaultRec) : OnlyChannel i s (s.raise f) :=
  ⟨rfl, rfl, rfl, rfl, rfl, rfl⟩

theorem readReg_onlyChannel (i : Chan) (r : Reg) (s : State) : OnlyChannel i s (readReg r s).2 := by
  obtain e | ⟨w, e⟩ := readReg_state r s <;> rw [e]
  · exact .refl i s
  · exact (OnlyChannel.refl i s).afterDraw w

theorem onlyChannel_updEic (i : Chan) (f : Channel → Channel) (s : State) : OnlyChannel i s (s.updEic i f) :=
  ⟨PerChan.get_set_other _ _ _, rfl, rfl, rfl, rfl, rfl⟩

theorem onlyChannel_pinEvent (i : Chan) (p : Byte) (s : State) : OnlyChannel i s (pinEvent i p s) := by
  unfold pinEvent
  exact (onlyChannel_updEic i _ s).afterDraw _

theorem onlyChannel_setSlot (i : Chan) (c : Option Byte) (s : State) : OnlyChannel i s (s.setSlot i c) :=
  ⟨rfl, PerChan.get_set_other _ _ _, rfl, rfl, rfl, rfl⟩

/-- The register belongs to channel i: its clock enable, or a register behind its clock. -/
def OfChannel (i : Chan) (r : Reg) : Prop := gateOf r = some i ∨ r = .clken i

/-- A write of a register of channel i stays in the channel. -/
theorem writeReg_onlyChannel {i : Chan} {r : Reg} (h : OfChannel i r) (d : Byte) (s : State) :
    OnlyChannel i s (writeReg r d s) := by
  obtain h | rfl := h
  · cases r <;> cases h
    case inl.data.refl | inl.ris.refl | inl.mis.refl => exact .refl i s
    case inl.pull.refl | inl.icr.refl | inl.im.refl => unfold writeReg; exact onlyChannel_updEic i _ s
    all_goals unfold writeReg configWrite; exact (onlyChannel_updEic i _ s).afterDraw _
  · unfold writeReg
    exact onlyChannel_updEic i _ s

section
variable {i : Chan} {s t : State}

/-- A stimulus whose action stays in channel i stays in it: a fault raised changes nothing of the block. -/
theorem stimulus_onlyChannel {act : State → Except FaultRec State} (h : stimulus s act = .next t)
    (ha : act (s.setResult none) = .ok t → OnlyChannel i (s.setResult none) t) : OnlyChannel i s t := by
  obtain ⟨-, h | ⟨f, -, rfl⟩⟩ := stimulus_next h
  · exact (ha h).of_setResult
  · exact onlyChannel_raise i s f

/-- A read changes no channel. -/
theorem rdStep_onlyChannel {r : Reg} (i : Chan) (h : rdStep r s = .next t) : OnlyChannel i s t := by
  obtain ⟨-, ⟨-, rfl⟩ | ⟨-, rfl⟩⟩ := rdStep_next h
  · exact (readReg_onlyChannel i r _).of_setResult.setResult _
  · exact onlyChannel_raise i s _

theorem wrStep_onlyChannel {r : Reg} {d : Byte} (hr : OfChannel i r) (h : wrStep r d s = .next t) : OnlyChannel i s t := by
  obtain ⟨-, ⟨-, rfl⟩ | ⟨-, rfl⟩⟩ := wrStep_next h
  · exact (writeReg_onlyChannel hr d _).of_setResult
  · exact onlyChannel_raise i s _

/-- A stimulus that names channel i and is no `CALL` stays in channel i. -/
theorem exec_onlyChannel {k : Instr} (hk : channelOf k = some i) (hc : ∀ st, k ≠ .call i st) (h : exec k s = .next t) :
    OnlyChannel i s t := by
  cases k <;> cases hk
  case call st => exact absurd rfl (hc st)
  case pin p =>
    rw [exec_pin] at h
    exact stimulus_onlyChannel h fun ht => by cases ht; exact onlyChannel_pinEvent i p _
  case setcb c => exact stimulus_onlyChannel h fun ht => registerCallback_ok ht ▸ onlyChannel_setSlot _ _ _
  case wrClken => exact wrStep_onlyChannel (.inr rfl) h
  case wrDir | wrAfsel | wrDen | wrPull | wrIs | wrIbe | wrIev | wrIcr | wrIm => exact wrStep_onlyChannel (.inl rfl) h
  all_goals exact rdStep_onlyChannel _ h

end

/-- Settles O24: register accesses, pin events and registrations of a channel stay in the channel. -/
theorem channelsShareNoState : Obligations.ChannelsShareNoState := by
  intro k s t i hk hc h
  obtain ⟨heic, hhandlers, hpta, hintc, hdsp, hmain⟩ := exec_onlyChannel hk hc h
  exact ⟨heic, hhandlers, hpta, hintc, hdsp, hmain⟩

/-! ## One turn of a handler (R145 to R147) -/

/-- An agent whose stimulus faults stays where it was (60_exceptions.md R205). -/
theorem agentTurn_raises {k : Instr} {after : State → State} {s u : State} (h : exec k s = .next u)
    (hu : u.fault ≠ none) : agentTurn true k after s = .next u := by simp [agentTurn, issue, h, hu]

theorem handlerTurn_idle {p : Params} {i : Chan} {s : State} (h : (s.handlers.get i).phase = .idle) :
    handlerTurn p i s = handlerStart p i s := by
  unfold handlerTurn
  rw [handlerInstr_none.2 h]

theorem handlerTurn_started {p : Params} {i : Chan} {s : State} {k : Instr}
    (h : handlerInstr p i (s.handlers.get i).phase = some k) :
    handlerTurn p i s = agentTurn (handlerFree p i s) k
      (fun u => u.setPhase i (handlerNext p i u.received (s.handlers.get i).phase)) s := by
  unfold handlerTurn
  rw [h]

theorem handlerStart_due {p : Params} {i : Chan} {s : State} (hs : healthy s) (hl : line s i = true)
    (hf : handlerFree p i s = true) : handlerStart p i s = .next (s.setPhase i .entered) := by
  have hs' : (s.setPhase i .entered).fault = none := hs
  rw [handlerStart, hl, hf, Bool.and_self, if_pos rfl, passTurn_healthy hs']

section
variable {s : State} {i : Chan} {rest : List Turn} (ht : s.turns = .handler i :: rest)
include ht

theorem step_handler :
    step s = passOver { s with turns := rest } (handlerTurn Config.params i { s with turns := rest }) := step_cons ht

/-- The turn of an idle handler whose line is 1 and which nothing bars starts an invocation (R146). -/
theorem step_handler_starts (hs : healthy s) (hf : Unbarred i s) (hph : (s.handlers.get i).phase = .idle)
    (hl : line s i = true) : step s = .next (State.setPhase { s with turns := rest } i .entered) := by
  have idle : ({ s with turns := rest }.handlers.get i).phase = .idle := hph
  have free : handlerFree Config.params i { s with turns := rest } = true := handlerFree_iff.2 hf
  rw [step_handler ht, handlerTurn_idle idle, handlerStart_due (s := { s with turns := rest }) hs hl free, passOver_next]

section
variable {k : Instr} (hf : Unbarred i s) (hk : handlerInstr Config.params i (s.handlers.get i).phase = some k)
include hf hk

theorem step_handler_started :
    step s = passOver { s with turns := rest } (agentTurn true k
      (fun u => u.setPhase i (handlerNext Config.params i u.received (s.handlers.get i).phase))
      { s with turns := rest }) := by
  have started : handlerInstr Config.params i ({ s with turns := rest }.handlers.get i).phase = some k := hk
  have free : handlerFree Config.params i { s with turns := rest } = true := handlerFree_iff.2 hf
  rw [step_handler ht, handlerTurn_started started, free]

/-- The turn of a started handler that nothing bars performs its stimulus and moves the handler on. -/
theorem step_handler_issues {u : State} (he : exec k { s with turns := rest } = .next u) (hu : healthy u) :
    step s = .next (u.setPhase i (handlerNext Config.params i u.received (s.handlers.get i).phase)) := by
  rw [step_handler_started ht hf hk, agentTurn_issues he hu, passOver_next]

/-- A stimulus that faults leaves the invocation where it was. -/
theorem step_handler_raises {f : FaultRec}
    (he : exec k { s with turns := rest } = .next (State.raise { s with turns := rest } f)) :
    step s = .next (State.raise { s with turns := rest } f) := by
  rw [step_handler_started ht hf hk, agentTurn_raises he nofun, passOver_next]

end

end

/-- Settles O45: of what a handler's turn can do, only a start takes it out of its idle position. -/
theorem handlerStartsOnlyWhenDue : Obligations.HandlerStartsOnlyWhenDue := by
  intro s i rest ht hph
  refine ⟨fun t h hne => ?_, fun hs hl hf => step_handler_starts ht hs hf hph hl⟩
  have stays : ({ s with turns := rest }.handlers.get i).phase = .idle := hph
  obtain h | ⟨-, rfl⟩ := step_cons_next ht h
  · obtain ⟨-, rfl⟩ | ⟨hs, -, hl, hf, -⟩ | ⟨-, k, u, hk, -⟩ := handlerTurn_next h
    · exact absurd stays hne
    · exact ⟨hs, hl, handlerFree_iff.1 hf⟩
    · rw [handlerInstr_none.2 stays] at hk
      cases hk
  · exact absurd stays hne

/-! ### H1 to H4: the state after each stimulus -/

/-- The byte that H2 delivers: `DATA` of the port the handler samples. -/
def sampledByte (s : State) (i : Chan) : Byte :=
  dataView (s.eic.get (Config.params.samplePort i)) (s.drawn (.eic (Config.params.samplePort i)))

/-- The status byte the callback gets. -/
def statusByte (s : State) (i : Chan) : Byte := sampledByte s i &&& Config.params.statusMask i

/-- The channel after H4, the flags of ACK_MASK cleared. -/
def acked (i : Chan) (c : Channel) : Channel := { c with ris := risAfterAck c.ris (Config.params.ackMask i) }

section
variable {s : State} {i : Chan} {rest : List Turn} (ht : s.turns = .handler i :: rest) (hs : healthy s) (hf : Unbarred i s)
include ht hs hf

/-- H1 delivers `MIS`, and the invocation goes on by what it finds pending. -/
theorem step_handler_H1 {ph : Phase} (hph : (s.handlers.get i).phase = .entered) (hc : (s.eic.get i).clken = true)
    (hn : handlerNext Config.params i (mis (s.eic.get i)) .entered = ph) :
    step s = .next (State.setPhase { s with turns := rest, result := some (mis (s.eic.get i)) } i ph) := by
  have he : exec (.rdMis i) { s with turns := rest } =
      .next { s with turns := rest, result := some (mis (s.eic.get i)) } :=
    exec_read_clocked (r := .mis i) hs rfl rfl hc
  rw [step_handler_issues ht hf (by rw [hph]; rfl) he hs, hph, ← hn]
  rfl

/-- H2 delivers the live levels of the sampled port, masked into the local s (90_conflicts.md C3). -/
theorem step_handler_H2 {m : Byte} (hph : (s.handlers.get i).phase = .tested m)
    (hc : (s.eic.get (Config.params.samplePort i)).clken = true) :
    step s = .next (State.setPhase
      { s with
        turns := rest, draws := s.draws.bump (.eic (Config.params.samplePort i)), result := some (sampledByte s i) } i
      (.sampled m (statusByte s i))) := by
  have he : exec (.rdData (Config.params.samplePort i)) { s with turns := rest } = .next { s with
      turns := rest, draws := s.draws.bump (.eic (Config.params.samplePort i)), result := some (sampledByte s i) } :=
    exec_read_clocked (r := .data (Config.params.samplePort i)) hs rfl rfl hc
  rw [step_handler_issues ht hf (by rw [hph]; rfl) he hs, hph]
  rfl

/-- H3 runs the callback of the slot on the local s. -/
theorem step_handler_H3 {m st : Byte} {u : State} (hph : (s.handlers.get i).phase = .sampled m st)
    (hu : callSlot Config.params i st { s with turns := rest, result := none } = .ok u) :
    step s = .next (u.setPhase i (.called m st)) := by
  have he : exec (.call i st) { s with turns := rest } = .next u := by
    rw [exec_call, stimulus_healthy (s := { s with turns := rest }) hs]
    exact congrArg (fun r => Host.Outcome.next (State.settle _ r)) hu
  have healthy_u : healthy u := (callSlot_sameOutside hu).fault.trans hs
  rw [step_handler_issues ht hf (by rw [hph]; rfl) he healthy_u, hph]
  rfl

/-- H4 acknowledges the flags of ACK_MASK, and the invocation ends. -/
theorem step_handler_H4 {m st : Byte} (hph : (s.handlers.get i).phase = .called m st) (hc : (s.eic.get i).clken = true) :
    step s = .next (State.setPhase { s.updEic i (acked i) with turns := rest, result := none } i .idle) := by
  have he : exec (.wrIcr i (Config.params.ackMask i)) { s with turns := rest } =
      .next { s.updEic i (acked i) with turns := rest, result := none } :=
    exec_write_clocked (r := .icr i) (s := { s with turns := rest }) hs rfl rfl hc
  rw [step_handler_issues ht hf (by rw [hph]; rfl) he hs, hph]
  rfl

end

/-- Settles O46: at H1 the byte delivered has no monitored pin, so the invocation ends there. -/
theorem spuriousEntryIsHarmless : Obligations.SpuriousEntryIsHarmless := by
  intro s i rest ht hs hph hc hf hnone
  have none_monitored : mis (s.eic.get i) &&& Config.params.mask.get i = 0#8 := hnone
  exact step_handler_H1 ht hs hf hph hc (handlerNext_spurious none_monitored)

/-- Settles O58: the three stimuli that fault are those of H1, H2 and H3, and a fault leaves the invocation where it was. -/
theorem handlerFaultsStopTheInvocation : Obligations.HandlerFaultsStopTheInvocation := by
  intro s i rest ht hs hf
  have hs' : healthy { s with turns := rest } := hs
  refine ⟨fun hph hc => ?_, fun m j hj hph hc => ?_, fun m st hph hcb => ?_⟩
  · exact step_handler_raises ht hf (by rw [hph]; rfl) (exec_read_unclocked (r := .mis i) hs' rfl rfl hc)
  · have sampled : handlerInstr Config.params i (s.handlers.get i).phase = some (.rdData j) := by rw [hph, hj]; rfl
    exact step_handler_raises ht hf sampled (exec_read_unclocked (r := .data j) hs' rfl rfl hc)
  · exact step_handler_raises ht hf (by rw [hph]; rfl) (exec_call_empty hs' hcb st)

/-! ## `READSTATUS` (R144) -/

/-- The bar of R214 on the main line, as claims state it. -/
theorem mainMay_iff {s : State} : mainMay s = true ↔ ∀ j, inProgress j s = false := by
  unfold mainMay
  rw [Bool.and_eq_true, Bool.not_eq_true', Bool.not_eq_true']
  exact ⟨fun h j => by cases j; exacts [h.1, h.2], fun h => ⟨h .c0, h .c1⟩⟩

/-- When an agent may issue `READSTATUS`, as claims state it. -/
theorem readStatusMay_iff {a : Agent} {s : State} : readStatusMay Config.params a s = true ↔ MayReadStatus s a := by
  cases a with
  | mainLine => simp [readStatusMay, MayReadStatus, mainMay_iff, and_comm]
  | handler j => simp [readStatusMay, MayReadStatus, handlerFree_iff]

/-- The turn of an agent that may issue `READSTATUS` is the read of `DATA`, after which the agent masks the byte. -/
theorem step_readStatus {s : State} {a : Agent} {i : Chan} {rest : List Turn} (ht : s.turns = .readStatus a i :: rest)
    (hm : MayReadStatus s a) : step s = passOver { s with turns := rest } (agentTurn true (.rdData i)
      (fun u => u.setResult (some (u.received &&& Config.params.mask.get i))) { s with turns := rest }) := by
  have may : readStatusMay Config.params a { s with turns := rest } = true := by
    rw [readStatusMay_iff]
    cases a <;> exact hm
  rw [← may]
  exact step_cons ht

/-- A masked bit of `DATA` (R144): 0 outside the mask, and inside it the level of a digital-in pin and the drawn bit of any
other. -/
theorem maskedData_bit (c : Channel) (x m : Byte) {b : Nat} (hb : b < 8) :
    (bit m b = false → bit (dataView c x &&& m) b = false) ∧
      (bit m b = true → digInAt c b → bit (dataView c x &&& m) b = bit c.pin b) ∧
      (bit m b = true → ¬ digInAt c b → bit (dataView c x &&& m) b = bit x b) := by
  simp only [bit, BitVec.getLsbD_and]
  exact ⟨fun h => by rw [h, Bool.and_false], fun h hd => by rw [h, Bool.and_true, dataView_digIn c x hb hd],
    fun h hd => by rw [h, Bool.and_true, dataView_not_digIn c x hb hd]⟩

/-- Settles O50: the turn is the read of `DATA`, with the byte masked before it is delivered. -/
theorem readStatusGivesMaskedLevels : Obligations.ReadStatusGivesMaskedLevels := by
  intro s a i rest ht hs hm
  have hs' : healthy { s with turns := rest } := hs
  refine ⟨fun hc => ⟨_, ?_, fun b hb => maskedData_bit (s.eic.get i) (s.drawn (.eic i)) _ hb⟩, fun hc => ?_⟩
  · rw [step_readStatus ht hm, agentTurn_issues (exec_read_clocked (r := .data i) hs' rfl rfl hc) hs', passOver_next]
    rfl
  · rw [step_readStatus ht hm, agentTurn_raises (exec_read_unclocked (r := .data i) hs' rfl rfl hc) nofun, passOver_next]
    rfl

/-! ## The two tables of the dispatcher (43_dispatcher.md R190, R191) -/

theorem incDisplay_toNat : ∀ c : Byte, c.toNat ≤ 15 → (incDisplay c).toNat = (c.toNat + 1) % 16 := by decide +kernel

theorem decDisplay_toNat : ∀ c : Byte, c.toNat ≤ 15 → (decDisplay c).toNat = (c.toNat + 15) % 16 := by decide +kernel

/-- Counting writes the display counter, and from a value in range it stores what `f` makes of it. -/
theorem countDisplay_effect (f : Byte → Byte) (s : State) : ∃ v n,
    countDisplay f s = { s with dsp := { s.dsp with displayCounter := v }, draws := n } ∧
      (s.dsp.displayCounter.toNat ≤ 15 → v = f s.dsp.displayCounter) := by
  by_cases h : s.dsp.displayCounter.toNat ≤ 15
  · exact ⟨_, _, if_pos h, fun _ => rfl⟩
  · exact ⟨_, _, if_neg h, fun hle => absurd hle h⟩

/-- `DISPATCH2` writes the display counter, and from a value in range it counts up, down or not at all (R190). -/
theorem dispatch2_effect (p : Params) (st : Byte) (s : State) : ∃ v n,
    dispatch2 p st s = { s with dsp := { s.dsp with displayCounter := v }, draws := n } ∧
      (s.dsp.displayCounter.toNat ≤ 15 → v.toNat =
        if st = p.codeInc then (s.dsp.displayCounter.toNat + 1) % 16
        else if st = p.codeDec then (s.dsp.displayCounter.toNat + 15) % 16
        else s.dsp.displayCounter.toNat) := by
  unfold dispatch2
  by_cases inc : st = p.codeInc
  · obtain ⟨v, n, e, hv⟩ := countDisplay_effect incDisplay s
    exact ⟨v, n, by rw [if_pos inc, e], fun h => by rw [if_pos inc, hv h, incDisplay_toNat _ h]⟩
  · by_cases dec : st = p.codeDec
    · obtain ⟨v, n, e, hv⟩ := countDisplay_effect decDisplay s
      exact ⟨v, n, by rw [if_neg inc, if_pos dec, e],
        fun h => by rw [if_neg inc, if_pos dec, hv h, decDisplay_toNat _ h]⟩
    · exact ⟨_, _, by rw [if_neg inc, if_neg dec], fun _ => by rw [if_neg inc, if_neg dec]⟩

theorem oneHot_bit (n : Fin 8) {b : Nat} (hb : b < 8) : bit (oneHot n) b = decide (b = n.val) := by
  have h : ∀ n b : Fin 8, bit (oneHot n) b.val = decide (b.val = n.val) := by decide
  exact h n ⟨b, hb⟩

/-- `DISPATCH4` writes `led_out`, and on its one code it toggles the bit LED_BIT (R191). -/
theorem dispatch4_effect (p : Params) (st : Byte) (s : State) : ∃ v,
    dispatch4 p st s = { s with dsp := { s.dsp with ledOut := v } } ∧
      ∀ b, b < 8 → bit v b =
        if st = p.codeToggle ∧ b = p.ledBit.val then !bit s.dsp.ledOut b else bit s.dsp.ledOut b := by
  unfold dispatch4
  by_cases tog : st = p.codeToggle
  · refine ⟨s.dsp.ledOut ^^^ oneHot p.ledBit, by rw [if_pos tog]; rfl, fun b hb => ?_⟩
    have hot : (oneHot p.ledBit).getLsbD b = decide (b = p.ledBit.val) := oneHot_bit _ hb
    rw [bit, BitVec.getLsbD_xor, hot]
    by_cases led : b = p.ledBit.val <;> simp [tog, led]
  · exact ⟨s.dsp.ledOut, by rw [if_neg tog], fun b _ => by rw [if_neg fun h => tog h.1]⟩

/-- What the table registered in a slot makes of the dispatcher's state d on the status byte st: one field each. -/
def TableEffect (cb : Option Byte) (st : Byte) (d d' : Dsp) : Prop :=
  (cb = some 0x01#8 → d'.ledOut = d.ledOut ∧
    (d.displayCounter.toNat ≤ 15 → d'.displayCounter.toNat =
      if st = Config.params.codeInc then (d.displayCounter.toNat + 1) % 16
      else if st = Config.params.codeDec then (d.displayCounter.toNat + 15) % 16
      else d.displayCounter.toNat)) ∧
  (cb = some 0x02#8 → d'.displayCounter = d.displayCounter ∧
    ∀ b, b < 8 → bit d'.ledOut b =
      if st = Config.params.codeToggle ∧ b = Config.params.ledBit.val then !bit d.ledOut b else bit d.ledOut b)

/-- With a table in the slot a `CALL` does the table's effect and nothing else, but for a draw. -/
theorem callSlot_table {i : Chan} {s : State}
    (h : (s.handlers.get i).cb = some 0x01#8 ∨ (s.handlers.get i).cb = some 0x02#8) (st : Byte) :
    ∃ d n, callSlot Config.params i st s = .ok { s with dsp := d, draws := n } ∧
      TableEffect (s.handlers.get i).cb st s.dsp d := by
  obtain h | h := h
  · obtain ⟨v, n, e, hv⟩ := dispatch2_effect Config.params st s
    refine ⟨_, n, (callSlot_some h st).trans (congrArg Except.ok e), fun _ => ⟨rfl, hv⟩, fun h2 => ?_⟩
    rw [h] at h2
    cases h2
  · obtain ⟨v, e, hv⟩ := dispatch4_effect Config.params st s
    refine ⟨_, s.draws, (callSlot_some h st).trans (congrArg Except.ok e), fun h1 => ?_, fun _ => ⟨rfl, hv⟩⟩
    rw [h] at h1
    cases h1

/-! ## A run of steps -/

theorem run_succ {M : Host.Core} {s t : M.State} (h : M.step s = .next t) (n : Nat) : M.run (n + 1) s = M.run n t := by
  rw [Host.Core.run, h]

/-! ## An undisturbed invocation (R145) -/

/-- The state s with H[i] at a position of its invocation, the schedule, the byte delivered and the draws being what they are
then. -/
def State.invoked (s : State) (i : Chan) (ph : Phase) (ts : List Turn) (x : Option Byte) (n : DrawCounts) : State :=
  { s with
    handlers := s.handlers.set i { s.handlers.get i with phase := ph }, turns := ts, result := x, draws := n }

@[simp] theorem State.invoked_phase (s : State) (i : Chan) (ph : Phase) (ts : List Turn) (x : Option Byte) (n : DrawCounts) :
    ((s.invoked i ph ts x n).handlers.get i).phase = ph := by simp [State.invoked]

@[simp] theorem State.invoked_cb (s : State) (i : Chan) (ph : Phase) (ts : List Turn) (x : Option Byte) (n : DrawCounts) :
    ((s.invoked i ph ts x n).handlers.get i).cb = (s.handlers.get i).cb := by simp [State.invoked]

@[simp] theorem State.invoked_setPhase (s : State) (i : Chan) (ph ph' : Phase) (ts : List Turn) (x : Option Byte)
    (n : DrawCounts) : (s.invoked i ph ts x n).setPhase i ph' = s.invoked i ph' ts x n := by
  simp [State.invoked, State.setPhase, State.updHandler]

/-- A handler with nothing done is where it was. -/
theorem State.invoked_idle {s : State} {i : Chan} (h : (s.handlers.get i).phase = .idle) (ts : List Turn) (x : Option Byte)
    (n : DrawCounts) : s.invoked i .idle ts x n = { s with turns := ts, result := x, draws := n } := by
  have same : { s.handlers.get i with phase := .idle } = s.handlers.get i := by rw [← h]
  rw [State.invoked, same, PerChan.set_get]

theorem State.invoked_healthy {s : State} (h : healthy s) (i : Chan) (ph : Phase) (ts : List Turn) (x : Option Byte)
    (n : DrawCounts) : healthy (s.invoked i ph ts x n) := h

theorem State.invoked_unbarred {s : State} {i : Chan} (h : (s.handlers.get i.other).phase = .idle) (ph : Phase)
    (ts : List Turn) (x : Option Byte) (n : DrawCounts) : Unbarred i (s.invoked i ph ts x n) := by
  left
  simp [inProgress, State.invoked, h, Phase.between]

section
variable {s : State} {i : Chan} {ts : List Turn} {x : Option Byte} {n : DrawCounts} (hs : healthy s)
  (hother : (s.handlers.get i.other).phase = .idle)
include hs hother

theorem step_invoked_H1 (hc : (s.eic.get i).clken = true) (hp : mis (s.eic.get i) &&& Config.params.mask.get i ≠ 0#8) :
    step (s.invoked i .entered (.handler i :: ts) x n) =
      .next (s.invoked i (.tested (mis (s.eic.get i) &&& Config.params.mask.get i)) ts (some (mis (s.eic.get i))) n) :=
  (step_handler_H1 rfl (State.invoked_healthy hs ..) (State.invoked_unbarred hother ..) (State.invoked_phase ..) hc
    (handlerNext_pending hp)).trans (congrArg Host.Outcome.next (State.invoked_setPhase s i ..))

theorem step_invoked_H2 {m : Byte} (hc : (s.eic.get (Config.params.samplePort i)).clken = true) :
    step (s.invoked i (.tested m) (.handler i :: ts) x s.draws) =
      .next (s.invoked i (.sampled m (statusByte s i)) ts (some (sampledByte s i))
        (s.draws.bump (.eic (Config.params.samplePort i)))) :=
  (step_handler_H2 rfl (State.invoked_healthy hs ..) (State.invoked_unbarred hother ..) (State.invoked_phase ..) hc).trans
    (congrArg Host.Outcome.next (State.invoked_setPhase s i ..))

theorem step_invoked_H3 {m st : Byte} (hcb : (s.handlers.get i).cb = some 0x01#8 ∨ (s.handlers.get i).cb = some 0x02#8) :
    ∃ d n', step (s.invoked i (.sampled m st) (.handler i :: ts) x n) =
        .next (State.invoked { s with dsp := d } i (.called m st) ts none n') ∧
      TableEffect (s.handlers.get i).cb st s.dsp d := by
  have hcb' : ((s.invoked i (.sampled m st) ts none n).handlers.get i).cb = some 0x01#8 ∨
    ((s.invoked i (.sampled m st) ts none n).handlers.get i).cb = some 0x02#8 := by rwa [State.invoked_cb]
  obtain ⟨d, n', e, hd⟩ := callSlot_table hcb' st
  rw [State.invoked_cb] at hd
  refine ⟨d, n', ?_, hd⟩
  exact (step_handler_H3 rfl (State.invoked_healthy hs ..) (State.invoked_unbarred hother ..) (State.invoked_phase ..) e).trans
    (congrArg Host.Outcome.next (State.invoked_setPhase { s with dsp := d } i ..))

theorem step_invoked_H4 {m st : Byte} (hc : (s.eic.get i).clken = true) :
    step (s.invoked i (.called m st) (.handler i :: ts) x n) =
      .next ((s.updEic i (acked i)).invoked i .idle ts none n) :=
  (step_handler_H4 rfl (State.invoked_healthy hs ..) (State.invoked_unbarred hother ..) (State.invoked_phase ..) hc).trans
    (congrArg Host.Outcome.next (State.invoked_setPhase (s.updEic i (acked i)) i ..))

end

/-- The start and H1 to H4 one after the other, with nothing between them: the state after is the state before but for the
dispatcher's state, the flags acknowledged, and the model's own fields. -/
theorem run_invocation {s : State} {i : Chan} {rest : List Turn}
    (ht : s.turns = .handler i :: .handler i :: .handler i :: .handler i :: .handler i :: rest) (hs : healthy s)
    (hc : ∀ k, (s.eic.get k).clken = true) (hidle : ∀ k, (s.handlers.get k).phase = .idle) (hl : line s i = true)
    (hp : mis (s.eic.get i) &&& Config.params.mask.get i ≠ 0#8)
    (hcb : (s.handlers.get i).cb = some 0x01#8 ∨ (s.handlers.get i).cb = some 0x02#8) :
    ∃ d n, Host.Core.run core 5 s =
        .next { s.updEic i (acked i) with turns := rest, result := none, draws := n, dsp := d } ∧
      TableEffect (s.handlers.get i).cb (statusByte s i) s.dsp d := by
  have other := hidle i.other
  have unbarred : Unbarred i s := .inl (by rw [inProgress, other]; rfl)
  obtain ⟨d, n, called, hd⟩ := step_invoked_H3 (m := mis (s.eic.get i) &&& Config.params.mask.get i) (st := statusByte s i)
    (ts := .handler i :: rest) (x := some (sampledByte s i)) (n := s.draws.bump (.eic (Config.params.samplePort i)))
    hs other hcb
  refine ⟨d, n, ?_, hd⟩
  refine (run_succ (step_handler_starts ht hs unbarred (hidle i) hl) 4).trans ?_
  refine (run_succ (step_invoked_H1 hs other (hc i) hp) 3).trans ?_
  refine (run_succ (step_invoked_H2 hs other (hc _)) 2).trans ?_
  refine (run_succ called 1).trans ?_
  refine (run_succ (step_invoked_H4 (s := { s with dsp := d }) hs other (hc i)) 0).trans ?_
  exact congrArg Host.Outcome.next (State.invoked_idle (s := State.updEic { s with dsp := d } i (acked i)) (hidle i) ..)

/-- Settles O47: the state after the run of an invocation, field by field. -/
theorem handlerInvocationAcknowledges : Obligations.HandlerInvocationAcknowledges := by
  rintro s i j sm am rest rfl rfl rfl ht hs hc hidle hl hp hcb
  obtain ⟨d, n, run, hone, htwo⟩ := run_invocation ht hs hc hidle hl hp hcb
  exact ⟨_, statusByte s i, run, rfl, hs, fun _ => rfl, PerChan.get_set_same .., PerChan.get_set_other .., rfl, rfl, rfl,
    fun b hb => maskedData_bit _ _ _ hb, hone, htwo⟩

/-! ## An undisturbed `INIT` (R143) -/

theorem mainTurn_init {p : Params} {s : State} {i : Chan} {c t : Byte} {n : Nat} {k : Instr} (hm : s.main = .init i c n t)
    (hk : initInstr p i c t n = some k) : mainTurn p s = agentTurn (mainMay s) k (initNext i c n t) s := by
  simp only [mainTurn, hm, hk]

section
variable {s u : State} {rest : List Turn} {i : Chan} {c t : Byte} (hfree : ∀ j, inProgress j s = false)
include hfree

/-- The turn that begins an `INIT` performs its first stimulus. -/
theorem step_begins_init (ht : s.turns = .init i c :: rest) (hm : s.main = .idle)
    (he : exec (.setcb i c) { s with turns := rest } = .next u) (hu : healthy u) :
    step s = .next (initNext i c 0 0x00#8 u) := by
  have may : (mainMay { s with turns := rest } && { s with turns := rest }.main == .idle) = true := by
    have idle : ({ s with turns := rest }.main == MainPhase.idle) = true := beq_iff_eq.2 hm
    rw [Bool.and_eq_true]
    exact ⟨mainMay_iff.2 hfree, idle⟩
  refine (step_cons ht).trans ?_
  rw [takeTurn, beginInit, may, agentTurn_issues he hu, passOver_next]

/-- The turn of a main line in an `INIT` performs its next stimulus. -/
theorem step_main_issues {n : Nat} {k : Instr} (ht : s.turns = .main :: rest) (hm : s.main = .init i c n t)
    (hk : initInstr Config.params i c t n = some k) (he : exec k { s with turns := rest } = .next u) (hu : healthy u) :
    step s = .next (initNext i c n t u) := by
  have may : mainMay { s with turns := rest } = true := mainMay_iff.2 hfree
  refine (step_cons ht).trans ?_
  rw [takeTurn, mainTurn_init (s := { s with turns := rest }) hm hk, may, agentTurn_issues he hu, passOver_next]

end

/-! ### Channels alike but for flags under a mask

A configuration write draws the flags of the pins whose bit it changes (10_state.md R35), and `INIT` changes bits of the monitored
pins only. So up to its acknowledge the flags under MASK are unknown, and the acknowledge clears exactly those. -/

/-- The two bytes agree outside μ. -/
def Kept (μ r r' : Byte) : Prop := ∀ b, b < 8 → bit μ b = false → bit r' b = bit r b

theorem Kept.refl (μ r : Byte) : Kept μ r r := fun _ _ _ => rfl

theorem Kept.trans {μ r r' r'' : Byte} (h : Kept μ r r') (h' : Kept μ r' r'') : Kept μ r r'' :=
  fun b hb hm => (h' b hb hm).trans (h b hb hm)

theorem kept_andNot (μ v : Byte) : Kept μ v (v &&& ~~~μ) := by
  intro b hb hm
  simp_all [bit]

theorem kept_or (μ v : Byte) : Kept μ v (v ||| μ) := by
  intro b hb hm
  simp_all [bit]

/-- Flags that agree outside μ agree everywhere once those of μ are acknowledged. -/
theorem risAfterAck_of_kept {μ r r' : Byte} (h : Kept μ r r') : risAfterAck r' μ = risAfterAck r μ := by
  refine BitVec.eq_of_getLsbD_eq fun b hb => ?_
  rw [risAfterAck_bit _ _ hb, risAfterAck_bit _ _ hb]
  cases hm : μ.getLsbD b with
  | true => simp
  | false => rw [show r'.getLsbD b = r.getLsbD b from h b hb hm]

/-- The channel ch' is ch but for flags of pins of μ. -/
def LikeBut (μ : Byte) (ch ch' : Channel) : Prop := ∃ r, Kept μ ch.ris r ∧ ch' = { ch with ris := r }

theorem LikeBut.refl (μ : Byte) (ch : Channel) : LikeBut μ ch ch := ⟨ch.ris, .refl μ _, rfl⟩

theorem likeBut_zero {ch ch' : Channel} (h : LikeBut 0#8 ch ch') : ch' = ch := by
  obtain ⟨r, hr, rfl⟩ := h
  have same : r = ch.ris := BitVec.eq_of_getLsbD_eq fun b hb => hr b hb (by simp [bit])
  rw [same]

/-! ### Segments of the 21 stimuli -/

/-- The state s in the middle of an `INIT` of channel i: the channel as it then is, and the schedule, the byte delivered and the
draws. -/
def State.inInit (s : State) (i : Chan) (ch : Channel) (m : MainPhase) (ts : List Turn) (x : Option Byte) (d : DrawCounts) :
    State :=
  { s with eic := s.eic.set i ch, main := m, turns := ts, result := x, draws := d }

@[simp] theorem State.inInit_channel (s : State) (i : Chan) (ch : Channel) (m : MainPhase) (ts : List Turn) (x : Option Byte)
    (d : DrawCounts) : (s.inInit i ch m ts x d).eic.get i = ch := PerChan.get_set_same ..

/-- From stimulus n on, k stimuli of `INIT i, c` do f to the channel and nothing else to the block, but for flags: with those
outside μ known before, those outside μ' are known after. -/
structure InitSegment (s : State) (i : Chan) (c μ μ' : Byte) (n k : Nat) (f : Channel → Channel) : Prop where
  clock : ∀ ch, (f ch).clken = ch.clken
  runs : ∀ (ch ch₁ : Channel) (ts : List Turn) (t : Byte) (x : Option Byte) (d : DrawCounts),
    ch.clken = true → LikeBut μ ch ch₁ → ∃ ch₂ t' x' d', LikeBut μ' (f ch) ch₂ ∧
      Host.Core.run core k (s.inInit i ch₁ (.init i c n t) (List.replicate k .main ++ ts) x d) =
        .next (s.inInit i ch₂ (.init i c (n + k) t') ts x' d')

theorem run_add {M : Host.Core} {t : M.State} (n : Nat) : ∀ (m : Nat) (s : M.State), M.run m s = .next t →
    M.run (m + n) s = M.run n t := by
  intro m
  induction m with
  | zero => intro s h; cases h; rw [Nat.zero_add]
  | succ m ih =>
    intro s h
    rw [Nat.succ_add]
    rw [Host.Core.run] at h ⊢
    split at h
    · exact ih _ h
    · cases h
    · cases h

section
variable {s : State} {i : Chan} {c μ μ' μ'' : Byte} {n k k' : Nat} {f g : Channel → Channel}

/-- Segments follow one another. -/
theorem InitSegment.append (h : InitSegment s i c μ μ' n k f) (h' : InitSegment s i c μ' μ'' (n + k) k' g) :
    InitSegment s i c μ μ'' n (k + k') fun ch => g (f ch) := by
  refine ⟨fun ch => (h'.clock _).trans (h.clock ch), fun ch ch₁ ts t x d hc like => ?_⟩
  obtain ⟨ch₂, t₂, x₂, d₂, like₂, run₁⟩ := h.runs ch ch₁ (List.replicate k' .main ++ ts) t x d hc like
  obtain ⟨ch₃, t₃, x₃, d₃, like₃, run₂⟩ := h'.runs (f ch) ch₂ ts t₂ x₂ d₂ ((h.clock ch).trans hc) like₂
  refine ⟨ch₃, t₃, x₃, d₃, like₃, ?_⟩
  rw [List.replicate_add, List.append_assoc, ← Nat.add_assoc]
  exact (run_add k' k _ run₁).trans run₂

variable (hs : healthy s)
include hs

/-- A read of a register of the channel in the middle of an `INIT`. -/
theorem exec_read_inInit {kr : Chan → Instr} {off : Byte} {get : Channel → Byte} (hr : ReadsAs kr off get) {ch : Channel}
    (hc : ch.clken = true) (m : MainPhase) (ts : List Turn) (x : Option Byte) (d : DrawCounts) :
    exec (kr i) (s.inInit i ch m ts x d) = .next (s.inInit i ch m ts (some (get ch)) d) := by
  have e := (hr i (s.inInit i ch m ts x d) hs).1 (by rwa [State.inInit_channel])
  rw [State.inInit_channel] at e
  exact e

/-- A write that makes no draw. -/
theorem exec_write_inInit {kw : Chan → Byte → Instr} {off : Byte} {put : Channel → Byte → Channel} (hw : WritesAs kw off put)
    {ch : Channel} (hc : ch.clken = true) (v : Byte) (m : MainPhase) (ts : List Turn) (x : Option Byte) (d : DrawCounts) :
    exec (kw i v) (s.inInit i ch m ts x d) = .next (s.inInit i (put ch v) m ts none d) := by
  have e := (hw i v (s.inInit i ch m ts x d) hs).1 (by rwa [State.inInit_channel])
  rw [State.inInit_channel] at e
  exact e.trans (congrArg (fun q => Host.Outcome.next { s with
    eic := q, main := m, turns := ts, result := none, draws := d }) (PerChan.set_set ..))

/-- A configuration write, whose draws are flags of pins whose bit it changes. -/
theorem exec_configWrite_inInit {kw : Chan → Byte → Instr} {off : Byte} {get : Channel → Byte}
    {put : Channel → Byte → Channel} (hw : ConfigWritesAs kw off get put) {ch : Channel} (hc : ch.clken = true) {v : Byte}
    (hv : Kept μ (get ch) v) (m : MainPhase) (ts : List Turn) (x : Option Byte) (d : DrawCounts) :
    ∃ r d', Kept μ ch.ris r ∧
      exec (kw i v) (s.inInit i ch m ts x d) = .next (s.inInit i { put ch v with ris := r } m ts none d') := by
  obtain ⟨r, e, hr⟩ := (hw i v (s.inInit i ch m ts x d) hs).1 (by rwa [State.inInit_channel])
  rw [State.inInit_channel] at e hr
  refine ⟨r, d.bump (.eic i), fun b hb hm => by rw [hr b hb, if_pos (hv b hb hm)], e.trans ?_⟩
  exact congrArg (fun q => Host.Outcome.next { s with
    eic := q, main := m, turns := ts, result := none, draws := d.bump (.eic i) }) (PerChan.set_set ..)

variable (hfree : ∀ j, inProgress j s = false)
include hfree

theorem step_inInit {ch ch' : Channel} {ts : List Turn} {t : Byte} {x x' : Option Byte} {d d' : DrawCounts} {kn : Instr}
    (hn : n < 20) (hk : initInstr Config.params i c t n = some kn)
    (he : exec kn (s.inInit i ch (.init i c n t) ts x d) = .next (s.inInit i ch' (.init i c n t) ts x' d')) :
    step (s.inInit i ch (.init i c n t) (.main :: ts) x d) =
      .next (s.inInit i ch' (.init i c (n + 1) (x'.getD t)) ts x' d') := by
  have moved := step_main_issues (s := s.inInit i ch (.init i c n t) (.main :: ts) x d)
    (u := s.inInit i ch' (.init i c n t) ts x' d') hfree rfl rfl hk he hs
  rw [initNext, if_pos hn] at moved
  exact moved

end

/-- A field of the channel other than its flags and its clock. -/
structure IsField (get : Channel → Byte) (put : Channel → Byte → Channel) : Prop where
  get_ris : ∀ ch r, get { ch with ris := r } = get ch
  put_ris : ∀ ch r v, put { ch with ris := r } v = { put ch v with ris := r }
  ris_put : ∀ ch v, (put ch v).ris = ch.ris
  clken_put : ∀ ch v, (put ch v).clken = ch.clken

section
variable {s : State} {i : Chan} {c μ : Byte} {n : Nat} (hs : healthy s) (hfree : ∀ j, inProgress j s = false)
  {kr : Chan → Instr} {kw : Chan → Byte → Instr} {off off' : Byte} {get : Channel → Byte} {put : Channel → Byte → Channel}
  {g : Byte → Byte} (hr : ReadsAs kr off get) (hfield : IsField get put := by constructor <;> intros <;> rfl)
  (hkr : ∀ t, initInstr Config.params i c t n = some (kr i) := by intro; rfl)
  (hkw : ∀ t, initInstr Config.params i c t (n + 1) = some (kw i (g t)) := by intro; rfl) (hn : n < 19 := by omega)
include hs hfree hr hfield hkr hkw hn

/-- The read of a field and the write of what g makes of it, where the write draws only flags of pins of μ. -/
theorem initSegment_of_write
    (hw : ∀ ch m ts x d, ch.clken = true → ∃ r d', Kept μ ch.ris r ∧
      exec (kw i (g (get ch))) (s.inInit i ch m ts x d) =
        .next (s.inInit i { put ch (g (get ch)) with ris := r } m ts none d')) :
    InitSegment s i c μ μ n 2 fun ch => put ch (g (get ch)) := by
  refine ⟨fun ch => hfield.clken_put ch _, fun ch ch₁ ts t x d hc like => ?_⟩
  obtain ⟨r, kept, rfl⟩ := like
  have hc₁ : { ch with ris := r }.clken = true := hc
  have read := step_inInit (n := n) (t := t) hs hfree (by omega) (hkr t)
    (exec_read_inInit hs hr hc₁ (.init i c n t) (.main :: ts) x d)
  rw [hfield.get_ris] at read
  obtain ⟨r', d', kept', e⟩ := hw { ch with ris := r } (.init i c (n + 1) (get ch)) ts (some (get ch)) d hc₁
  rw [hfield.get_ris, hfield.put_ris] at e
  have write := step_inInit hs hfree (by omega) (hkw (get ch)) e
  refine ⟨_, get ch, none, d', ⟨r', ?_, rfl⟩, (run_succ read 1).trans (run_succ write 0)⟩
  rw [hfield.ris_put]
  exact kept.trans kept'

/-- The read and the write back of a configuration register, changed at pins of μ only. -/
theorem initSegment_configures (hg : ∀ v, Kept μ v (g v)) (hw : ConfigWritesAs kw off' get put) :
    InitSegment s i c μ μ n 2 fun ch => put ch (g (get ch)) :=
  initSegment_of_write hs hfree hr hfield hkr hkw hn fun _ m ts x d hc =>
    exec_configWrite_inInit hs hw hc (hg _) m ts x d

/-- The read and the write back of a register whose writes leave the flags alone. -/
theorem initSegment_stores (hw : WritesAs kw off' put) : InitSegment s i c μ μ n 2 fun ch => put ch (g (get ch)) := by
  refine initSegment_of_write hs hfree hr hfield hkr hkw hn fun ch m ts x d hc => ⟨ch.ris, d, .refl μ _, ?_⟩
  rw [exec_write_inInit hs hw hc, ← hfield.ris_put ch (g (get ch))]

end

/-- Stimulus 16 acknowledges the monitored pins: no flag is unknown after it. -/
theorem initSegment_acknowledges {s : State} (hs : healthy s) (hfree : ∀ j, inProgress j s = false) (i : Chan) (c : Byte) :
    InitSegment s i c (Config.params.mask.get i) 0#8 16 1 fun ch =>
      { ch with ris := risAfterAck ch.ris (Config.params.mask.get i) } := by
  refine ⟨fun ch => rfl, fun ch ch₁ ts t x d hc like => ?_⟩
  obtain ⟨r, kept, rfl⟩ := like
  have e := exec_write_inInit (i := i) hs wrIcr_writesAs (ch := { ch with ris := r }) hc (Config.params.mask.get i)
    (.init i c 16 t) ts x d
  have write := step_inInit hs hfree (by omega) rfl e
  rw [risAfterAck_of_kept kept] at write
  exact ⟨_, t, none, d, .refl _ _, run_succ write 0⟩

/-- What `INIT` makes of a channel whose clock is on (R143): the monitored pins are digital inputs with pull-up, sensitive to a
rising edge, not pending and unmasked. -/
def Channel.initialized (m : Byte) (ch : Channel) : Channel :=
  { ch with
    dir := ch.dir &&& ~~~m, afsel := ch.afsel &&& ~~~m, den := ch.den ||| m, pull := ch.pull ||| m
    sense := ch.sense &&& ~~~m, ibe := ch.ibe &&& ~~~m, iev := ch.iev ||| m
    ris := risAfterAck ch.ris m, im := ch.im ||| m }

/-- Stimuli 2 to 18: seven registers configured, the flags acknowledged, the mask written. -/
theorem initSegment_registers {s : State} (hs : healthy s) (hfree : ∀ j, inProgress j s = false) (i : Chan) (c : Byte) :
    InitSegment s i c (Config.params.mask.get i) 0#8 2 17 (Channel.initialized (Config.params.mask.get i)) := by
  obtain ⟨rdDir, rdAfsel, rdDen, rdPull, rdIs, rdIbe, rdIev, -, -, rdIm⟩ := channelReadsDeliverTheRegister
  obtain ⟨wrDir, wrAfsel, wrDen, wrIs, wrIbe, wrIev⟩ := configurationWritesDrawChangedFlags
  obtain ⟨wrPull, wrIm⟩ := pullAndMaskWritesOnlyStore
  have cleared := kept_andNot (Config.params.mask.get i)
  have raised := kept_or (Config.params.mask.get i)
  have dir : InitSegment s i c _ _ 2 2 _ := initSegment_configures hs hfree rdDir (hg := cleared) (hw := wrDir)
  have upToAfsel := dir.append (initSegment_configures hs hfree rdAfsel (hg := cleared) (hw := wrAfsel))
  have upToDen := upToAfsel.append (initSegment_configures hs hfree rdDen (hg := raised) (hw := wrDen))
  have upToPull := upToDen.append (initSegment_stores hs hfree rdPull (g := (· ||| Config.params.mask.get i)) (hw := wrPull))
  have upToIs := upToPull.append (initSegment_configures hs hfree rdIs (hg := cleared) (hw := wrIs))
  have upToIbe := upToIs.append (initSegment_configures hs hfree rdIbe (hg := cleared) (hw := wrIbe))
  have upToIev := upToIbe.append (initSegment_configures hs hfree rdIev (hg := raised) (hw := wrIev))
  have upToIcr := upToIev.append (initSegment_acknowledges hs hfree i c)
  exact upToIcr.append (initSegment_stores hs hfree rdIm (g := (· ||| Config.params.mask.get i)) (hw := wrIm))

/-! ### The whole run -/

theorem exec_write_ungated {r : Reg} {d : Byte} {k : Instr} {s : State} (hs : healthy s) (hg : gateOf r = none)
    (hk : r.writeInstr d = some k) : exec k s = .next (writeReg r d (s.setResult none)) := by
  rw [exec_writeInstr hk, wrStep_allowed d hs ⟨(writable_iff_writeInstr d).2 ⟨k, hk⟩, gatedOff_of_ungated s hg⟩]

/-- A registration moves no handler. -/
theorem inProgress_setSlot (j i : Chan) (c : Option Byte) (s : State) : inProgress j (s.setSlot i c) = inProgress j s := by
  rw [inProgress, State.setSlot_handlers, PerChan.get_set]
  split
  · subst_vars; rfl
  · rfl

/-- The state after an undisturbed `INIT i, c`: the slot filled, the clock on, the channel's registers configured, its priority and
its enable written. Every flag drawn on the way has been acknowledged. -/
def State.afterInit (s : State) (i : Chan) (c : Byte) (rest : List Turn) (d : DrawCounts) : State :=
  { s with
    eic := s.eic.set i (Channel.initialized (Config.params.mask.get i) { s.eic.get i with clken := true })
    handlers := s.handlers.set i { s.handlers.get i with cb := slotOf c }
    intc := { en := s.intc.en ||| low2 (lineByte i), pri := s.intc.pri.set i (Config.params.prio.get i) }
    main := .idle, turns := rest, result := none, draws := d }

section
variable {s : State} {i : Chan} {c : Byte} (hs : healthy s) (hfree : ∀ j, inProgress j s = false)
include hs hfree

/-- Stimuli 19 and 20 write the priority and the enable, and the `INIT` is done. -/
theorem run_initEnd (ch : Channel) (t : Byte) (rest : List Turn) (x : Option Byte) (d : DrawCounts) :
    Host.Core.run core 2 (s.inInit i ch (.init i c 19 t) (.main :: .main :: rest) x d) =
      .next { s.inInit i ch .idle rest none d with
        intc := { en := s.intc.en ||| low2 (lineByte i), pri := s.intc.pri.set i (Config.params.prio.get i) } } := by
  have pri := step_main_issues (s := s.inInit i ch (.init i c 19 t) (.main :: .main :: rest) x d) hfree rfl rfl rfl
    (exec_write_ungated (r := .pri i) hs rfl rfl) hs
  refine (run_succ pri 1).trans ?_
  have enable := step_main_issues (s := { s.inInit i ch (.init i c 20 t) (.main :: rest) none d with
    intc := { s.intc with pri := s.intc.pri.set i (Config.params.prio.get i) } }) hfree rfl rfl rfl
    (exec_write_ungated (r := .seten) hs rfl rfl) hs
  exact run_succ enable 0

/-- Stimuli 0 and 1 fill the slot and set the clock going. -/
theorem run_initBegin {ts : List Turn} (ht : s.turns = .init i c :: .main :: ts) (hm : s.main = .idle)
    (hc : c ≠ 0#8 ∨ Config.params.hardenedInit = false) :
    Host.Core.run core 2 s = .next ((s.setSlot i (slotOf c)).inInit i { s.eic.get i with clken := true }
      (.init i c 2 0#8) ts none s.draws) := by
  have slot := step_begins_init hfree ht hm (exec_setcb_stored (s := { s with turns := .main :: ts }) hs hc) hs
  refine (run_succ slot 1).trans ?_
  have hfree' (j : Chan) : inProgress j (s.setSlot i (slotOf c)) = false := (inProgress_setSlot ..).trans (hfree j)
  have ungated := (clockEnableIsNeverGated i 0x01#8
    { s.setSlot i (slotOf c) with main := .init i c 1 0x00#8, turns := ts, result := none } hs).2
  have clock := step_main_issues
    (s := { s.setSlot i (slotOf c) with main := .init i c 1 0x00#8, turns := .main :: ts, result := none })
    hfree' rfl rfl rfl ungated hs
  exact run_succ clock 0

end

theorem run_init {s : State} {i : Chan} {c : Byte} {rest : List Turn}
    (ht : s.turns = .init i c :: (List.replicate 20 .main ++ rest)) (hs : healthy s) (hm : s.main = .idle)
    (hfree : ∀ j, inProgress j s = false) (hc : c ≠ 0#8 ∨ Config.params.hardenedInit = false) :
    ∃ d, Host.Core.run core 21 s = .next (s.afterInit i c rest d) := by
  have hfree' (j : Chan) : inProgress j (s.setSlot i (slotOf c)) = false := (inProgress_setSlot ..).trans (hfree j)
  have hs' : healthy (s.setSlot i (slotOf c)) := hs
  obtain ⟨ch, t, x, d, like, registers⟩ := (initSegment_registers hs' hfree' i c).runs { s.eic.get i with clken := true } _
    (.main :: .main :: rest) 0#8 none s.draws rfl (.refl _ _)
  cases likeBut_zero like
  refine ⟨d, ?_⟩
  refine (run_add 19 2 _ (run_initBegin hs hfree ht hm hc)).trans ?_
  refine (run_add 2 17 _ registers).trans ?_
  exact run_initEnd hs' hfree' _ t rest x d

theorem initialized_monitored (m : Byte) (ch : Channel) {b : Nat} (hb : b < 8) (hm : bit m b = true) :
    MonitoredPinReady (ch.initialized m) b := by
  simp [MonitoredPinReady, Channel.initialized, risAfterAck, hb, hm]

/-- `WR.SETEN` of a line's byte sets that line's enable and keeps the other's. -/
theorem enable_line : ∀ (e : BitVec 2) (i : Chan), chanBit (e ||| low2 (lineByte i)) i = true ∧
    chanBit (e ||| low2 (lineByte i)) i.other = chanBit e i.other := by
  intro e i
  cases i <;> revert e <;> decide

/-- Settles O49: the state after the run of `INIT`, field by field. -/
theorem initLeavesTheChannelInitialized : Obligations.InitLeavesTheChannelInitialized := by
  intro s i c rest ht hs hm hfree hc
  obtain ⟨d, run⟩ := run_init ht hs hm hfree hc
  obtain ⟨enabled, other⟩ := enable_line s.intc.en i
  have cleared (v : Byte) := kept_andNot (Config.params.mask.get i) v
  have raised (v : Byte) := kept_or (Config.params.mask.get i) v
  refine ⟨_, run, hs, rfl, rfl, ⟨?_, ?_, fun b hb hb' => ?_, PerChan.get_set_same .., enabled⟩, fun b hb hb' => ?_, ?_,
    PerChan.get_set_other .., PerChan.get_set_other .., ?_, other, PerChan.get_set_other .., rfl, rfl⟩
  all_goals simp only [State.afterInit, PerChan.get_set_same]
  · rfl
  · rfl
  · exact initialized_monitored _ _ hb hb'
  · exact ⟨cleared _ b hb hb', cleared _ b hb hb', raised _ b hb hb', raised _ b hb hb', cleared _ b hb hb', cleared _ b hb hb',
      raised _ b hb hb', raised _ b hb hb', cleared _ b hb hb'⟩
  · rfl

end Sys2Proof.Machine
end

section
/-! PROOFS. The statements of 42_tick_accumulator.md: what one tick makes of the stored counters, what any number of ticks
makes of them, and the accesses to the accumulator's registers; then the invariant of the block, which the counters are a part of. -/

namespace Sys2Proof.Machine

open Sys2Proof.Safety

/-! ## One tick -/

/-- A tick changes the accumulator by `tickPta`, and nothing else. -/
theorem exec_tick_healthy {s : State} (hs : healthy s) :
    exec .tick s = .next { s with pta := tickPta s.pta, result := none } := by
  rw [exec_tick, stimulus_healthy hs]
  rfl

theorem exec_tick_pta {s t : State} (h : exec .tick s = .next t) : t.pta = tickPta s.pta := by
  obtain ⟨hs, -⟩ := stimulus_next (exec_tick s ▸ h)
  cases (exec_tick_healthy hs).symm.trans h
  rfl

theorem tickPta_start {p : Accumulator} (hr : p.rstReq = false) : (tickPta p).start = p.start := by
  cases hs : p.start <;> simp [tickPta, tickServe, tickRun, hs, hr]

theorem tickPta_rstReq (p : Accumulator) : (tickPta p).rstReq = false := by
  cases hr : p.rstReq with
  | true => rw [tickPta_serves p hr]; rfl
  | false => cases hs : p.start <;> simp [tickPta, tickServe, tickRun, hs, hr]

theorem countersInRange_zero : CountersInRange .zero := ⟨Nat.zero_le _, Nat.zero_le _, Nat.zero_le _, Nat.zero_le _⟩

/-- Whatever is stored, a tick that runs or serves a request leaves the counters in range. -/
theorem tickPta_inRange {p : Accumulator} (h : p.start = true ∨ p.rstReq = true) : CountersInRange (tickPta p) := by
  cases hr : p.rstReq with
  | true =>
    rw [tickPta_serves p hr]
    exact countersInRange_zero
  | false =>
    have hs : p.start = true := by simpa [hr] using h
    have range := accumulate_range p.counts
    rwa [← tickPta_counts p hs hr] at range

/-- Settles O38: with both flags 0 `tickPta` is the identity. -/
theorem stoppedTickChangesNothing : Obligations.StoppedTickChangesNothing := by
  intro s hs hstart hreq
  rw [exec_tick_healthy hs, tickPta_stopped _ hstart hreq]

/-- Settles O39: the counters after the tick are those of `tickPta`. -/
theorem tickBringsCountersIntoRange : Obligations.TickBringsCountersIntoRange := by
  intro s t h hflag
  rw [exec_tick_pta h]
  exact tickPta_inRange hflag

/-! ### The cascade of the four tests (R178) -/

/-- The carry of the first test, made on the advanced subdivider. -/
def Counts.carryD (c : Counts) : Nat := if 99 ≤ c.e then 1 else 0

/-- The carry of the second test, made on what the first left. -/
def Counts.carryS (c : Counts) : Nat := if 9 < c.d + c.carryD then 1 else 0

/-- The carry of the third test, made on what the second left. -/
def Counts.carryM (c : Counts) : Nat := if 59 < c.s + c.carryS then 1 else 0

theorem rollE_advanced (c : Counts) :
    rollE { c with e := c.e + 1 } = ⟨if c.carryD = 1 then 0 else c.e + 1, c.d + c.carryD, c.s, c.m⟩ := by
  by_cases h : 99 ≤ c.e
  · simp [rollE, Counts.carryD, h, show 99 < c.e + 1 by omega]
  · simp [rollE, Counts.carryD, h, show ¬ 99 < c.e + 1 by omega]

theorem rollD_carried (c : Counts) (e : Nat) :
    rollD ⟨e, c.d + c.carryD, c.s, c.m⟩ = ⟨e, if c.carryS = 1 then 0 else c.d + c.carryD, c.s + c.carryS, c.m⟩ := by
  by_cases h : 9 < c.d + c.carryD <;> simp [rollD, Counts.carryS, h]

theorem rollS_carried (c : Counts) (e d : Nat) :
    rollS ⟨e, d, c.s + c.carryS, c.m⟩ = ⟨e, d, if c.carryM = 1 then 0 else c.s + c.carryS, c.m + c.carryM⟩ := by
  by_cases h : 59 < c.s + c.carryS <;> simp [rollS, Counts.carryM, h]

theorem rollM_carried (c : Counts) (e d s : Nat) :
    rollM ⟨e, d, s, c.m + c.carryM⟩ = ⟨e, d, s, if 9 < c.m + c.carryM then 0 else c.m + c.carryM⟩ := by
  by_cases h : 9 < c.m + c.carryM <;> simp [rollM, h]

/-- The four tests in terms of their carries. -/
theorem accumulate_carries (c : Counts) :
    accumulate c =
      ⟨if c.carryD = 1 then 0 else c.e + 1, if c.carryS = 1 then 0 else c.d + c.carryD,
        if c.carryM = 1 then 0 else c.s + c.carryS, if 9 < c.m + c.carryM then 0 else c.m + c.carryM⟩ := by
  rw [accumulate, rollE_advanced, rollD_carried, rollS_carried, rollM_carried]

/-- Settles O35: the counters after a running tick are those of `accumulate`, and its four tests are the carries of the rule. -/
theorem tickFollowsTheCascade : Obligations.TickFollowsTheCascade := by
  refine fun s hs => ⟨tickPta s.pta, exec_tick_healthy hs, tickPta_serves _, fun hr hstart => tickPta_stopped _ hstart hr,
    fun hr hstart => ⟨(tickPta_start hr).trans hstart, tickPta_rstReq _, fun carryD carryS carryM hD hS hM => ?_⟩⟩
  obtain rfl : carryD = s.pta.counts.carryD := hD
  obtain rfl : carryS = s.pta.counts.carryS := hS
  obtain rfl : carryM = s.pta.counts.carryM := hM
  have cascade := (tickPta_counts _ hstart hr).trans (accumulate_carries _)
  exact ⟨congrArg Counts.e cascade, congrArg Counts.d cascade, congrArg Counts.s cascade, congrArg Counts.m cascade⟩

/-! ## Any number of ticks (section 3) -/

/-- One tick or more change the accumulator by as many turns of `tickPta`, and nothing else. -/
theorem tickTimes_succ (n : Nat) : ∀ {s : State}, healthy s →
    tickTimes (n + 1) s = .next { s with pta := tickPta^[n + 1] s.pta, result := none } := by
  induction n with
  | zero =>
    intro s hs
    rw [tickTimes, exec_tick_healthy hs]
    rfl
  | succ n ih =>
    intro s hs
    rw [tickTimes, exec_tick_healthy hs]
    exact ih (s := { s with pta := tickPta s.pta, result := none }) hs

/-- Settles O37: the tick that serves the request leaves a stopped stopwatch, which `tickPta` leaves alone. -/
theorem resetRequestStopsAtZero : Obligations.ResetRequestStopsAtZero := by
  intro n s hs hreq
  have served : tickPta s.pta = .zero := tickPta_serves _ hreq
  have stays : tickPta^[n] .zero = .zero := Function.iterate_fixed (tickPta_stopped .zero rfl rfl) n
  constructor
  · rw [exec_tick_healthy hs, served]
    rfl
  · rw [tickTimes_succ n hs, Function.iterate_succ_apply, served, stays]
    rfl

/-- From counts in range each test moves a whole period of its counter into its carry, and the last drops it. -/
theorem accumulate_balance {c : Counts} (he : c.e ≤ 99) (hd : c.d ≤ 9) (hs : c.s ≤ 59) (hm : c.m ≤ 9) :
    (accumulate c).e + 100 * c.carryD = c.e + 1 ∧ (accumulate c).d + 10 * c.carryS = c.d + c.carryD ∧
      (accumulate c).s + 60 * c.carryM = c.s + c.carryS ∧
      ((accumulate c).m = c.m + c.carryM ∨ (accumulate c).m + 10 = c.m + c.carryM) := by
  rw [accumulate_carries]
  have balanceE : c.carryD = 0 ∧ c.e < 99 ∨ c.carryD = 1 ∧ c.e = 99 := by unfold Counts.carryD; split <;> omega
  have balanceD : c.carryS = 0 ∧ c.d + c.carryD ≤ 9 ∨ c.carryS = 1 ∧ c.d + c.carryD = 10 := by
    unfold Counts.carryS; split <;> omega
  have balanceS : c.carryM = 0 ∧ c.s + c.carryS ≤ 59 ∨ c.carryM = 1 ∧ c.s + c.carryS = 60 := by
    unfold Counts.carryM; split <;> omega
  refine ⟨?_, ?_, ?_, ?_⟩ <;> dsimp only <;> split <;> omega

theorem timeOf_counts (p : Accumulator) :
    timeOf p = p.counts.e + 100 * p.counts.d + 1000 * p.counts.s + 60000 * p.counts.m := rfl

/-- The balances of the four counters add up: the count goes up by one, and from its last value to 0. -/
theorem timeOf_tickPta {p : Accumulator} (hp : CountersInRange p) (hs : p.start = true) (hr : p.rstReq = false) :
    timeOf (tickPta p) = (timeOf p + 1) % 600000 := by
  obtain ⟨e_le, d_le, s_le, m_le⟩ := hp
  have range := accumulate_range p.counts
  have balance := accumulate_balance (c := p.counts) e_le d_le s_le m_le
  rw [timeOf_counts, timeOf_counts, tickPta_counts p hs hr]
  omega

/-- What section 3 counts from: the counters in range, the run flag set and no reset request. -/
structure Running (p : Accumulator) : Prop where
  range : CountersInRange p
  start : p.start = true
  rstReq : p.rstReq = false

theorem Running.tick {p : Accumulator} (h : Running p) : Running (tickPta p) :=
  ⟨tickPta_inRange (.inl h.start), (tickPta_start h.rstReq).trans h.start, tickPta_rstReq p⟩

/-- Ticks keep the stopwatch running, and each adds one to its count (R179). -/
theorem Running.ticks {p : Accumulator} (h : Running p) (n : Nat) :
    Running (tickPta^[n + 1] p) ∧ timeOf (tickPta^[n + 1] p) = (timeOf p + (n + 1)) % 600000 := by
  induction n with
  | zero => exact ⟨h.tick, timeOf_tickPta h.range h.start h.rstReq⟩
  | succ n ih =>
    obtain ⟨running, time⟩ := ih
    rw [Function.iterate_succ_apply']
    refine ⟨running.tick, ?_⟩
    rw [timeOf_tickPta running.range running.start running.rstReq, time, Nat.mod_add_mod, Nat.add_assoc]

/-- Settles O36: n ticks are n turns of `tickPta`, which keep the stopwatch running and add n to its count. -/
theorem ticksCountModuloTenMinutes : Obligations.TicksCountModuloTenMinutes := by
  intro n s hs range start req hn
  obtain ⟨n, rfl⟩ := Nat.exists_eq_add_one.2 hn
  obtain ⟨running, time⟩ := Running.ticks ⟨range, start, req⟩ n
  exact ⟨_, tickTimes_succ n hs, running.range, time, running.start, running.rstReq⟩

/-! ## The accumulator's registers -/

/-- A read of a register behind no clock delivers its byte. -/
theorem exec_read_ungated {r : Reg} {k : Instr} {s : State} (hs : healthy s) (hg : gateOf r = none)
    (hk : r.readInstr = some k) : exec k s = .next (deliver (readReg r (s.setResult none))) := by
  rw [exec_readInstr hk, rdStep_allowed hs ⟨readable_iff_readInstr.2 ⟨k, hk⟩, gatedOff_of_ungated s hg⟩]

/-- Settles O33: the registers are behind no clock, and `readReg` gives their bytes. -/
theorem stopwatchReadsDeliverTheCounters : Obligations.StopwatchReadsDeliverTheCounters := by
  intro s hs
  simp only [BitVec.ofNat_toNat]
  exact ⟨exec_read_ungated (r := .start) hs rfl rfl, exec_read_ungated (r := .rstreq) hs rfl rfl,
    exec_read_ungated (r := .msel) hs rfl rfl, exec_read_ungated (r := .ms) hs rfl rfl,
    exec_read_ungated (r := .sec) hs rfl rfl, exec_read_ungated (r := .min) hs rfl rfl⟩

/-- Settles O34: the registers are behind no clock, and `writeReg` stores bit 0 in their flag. -/
theorem stopwatchFlagWritesStoreBitZero : Obligations.StopwatchFlagWritesStoreBitZero :=
  fun _ _ hs => ⟨exec_write_ungated (r := .start) hs rfl rfl, exec_write_ungated (r := .rstreq) hs rfl rfl⟩

/-! ## The invariant of the block

A register access or a callback keeps all it speaks of but the display counter (`SameOutside`), so of these only the display
counter is left to look at. `TICK` and `SETCB` have their own lemmas, and what an agent does after its stimulus touches nothing it speaks
of. -/

/-- The display counter is in range (R49). -/
def DisplayInRange (s : State) : Prop := s.dsp.displayCounter.toNat ≤ 15

theorem displayInRange_of_blockInv {s : State} (hi : BlockInv s) : DisplayInRange s := by
  obtain ⟨-, display, -, -⟩ := hi
  exact display

theorem blockInv_of_sameOutside {s t : State} (hi : BlockInv s) (h : SameOutside s t) (hd : DisplayInRange t) : BlockInv t := by
  obtain ⟨range, -, slots, overflow⟩ := hi
  rw [CountersInRange, ← h.msElapsed, ← h.milliseconds, ← h.seconds, ← h.minutes] at range
  rw [← h.handlers] at slots
  rw [← h.fault] at overflow
  exact ⟨range, hd, slots, overflow⟩

/-! ### The display counter under a register access and a callback -/

theorem readReg_dsp (r : Reg) (s : State) : (readReg r s).2.dsp = s.dsp := by
  obtain e | ⟨w, e⟩ := readReg_state r s <;> rw [e]
  rfl

theorem writeReg_dsp (r : Reg) (d : Byte) (s : State) : (writeReg r d s).dsp = s.dsp := by cases r <;> rfl

theorem memRead_dsp {a : Byte} {s : State} {q : Byte × State} (h : memRead a s = .ok q) : q.2.dsp = s.dsp := by
  cases ha : Reg.ofAddr a with
  | none => simp [memRead_unassigned ha] at h
  | some r =>
    rw [memRead_assigned ha] at h
    by_cases allowed : allowedRead r s
    · cases (regRead_allowed allowed).symm.trans h
      exact readReg_dsp r s
    · cases (regRead_barred allowed).symm.trans h

theorem memWrite_dsp {a d : Byte} {s t : State} (h : memWrite a d s = .ok t) : t.dsp = s.dsp := by
  cases ha : Reg.ofAddr a with
  | none => simp [memWrite_unassigned ha] at h
  | some r =>
    rw [memWrite_assigned ha] at h
    by_cases allowed : allowedWrite r s
    · cases (regWrite_allowed d allowed).symm.trans h
      exact writeReg_dsp r d s
    · cases (regWrite_barred d allowed).symm.trans h

theorem dispatch2_displayInRange (p : Params) (st : Byte) {s : State} (hd : DisplayInRange s) :
    DisplayInRange (dispatch2 p st s) := by
  unfold dispatch2
  split
  · exact countDisplay_range hd incDisplay_range
  · split
    · exact countDisplay_range hd decDisplay_range
    · exact hd

theorem dispatch4_displayInRange (p : Params) (st : Byte) {s : State} (hd : DisplayInRange s) :
    DisplayInRange (dispatch4 p st s) := by
  unfold dispatch4
  split <;> exact hd

/-- An effect stores four bits in the display counter (log entry 13), or leaves it. -/
theorem runEffect_displayInRange {e : Effect} {s t : State} (h : runEffect e s = .ok t) (hd : DisplayInRange s) :
    DisplayInRange t := by
  cases e with
  | setDisplay v =>
    cases h
    have small := v.isLt
    simp only [DisplayInRange, State.updDsp_dsp, BitVec.toNat_setWidth]
    omega
  | setLed v => cases h; exact hd
  | rd a =>
    cases hq : memRead a s with
    | ok q =>
      simp only [runEffect, hq] at h
      cases h
      rwa [DisplayInRange, memRead_dsp hq]
    | error f =>
      simp only [runEffect, hq] at h
      cases h
  | wr a d => rwa [DisplayInRange, memWrite_dsp h]

theorem callSlot_displayInRange {p : Params} {i : Chan} {st : Byte} {s t : State} (h : callSlot p i st s = .ok t)
    (hd : DisplayInRange s) : DisplayInRange t := by
  cases hc : (s.handlers.get i).cb with
  | none => simp [callSlot_none hc] at h
  | some c =>
    rw [callSlot_some hc, callbackRun] at h
    split at h
    · cases h
    · cases h; exact dispatch2_displayInRange p st hd
    · cases h; exact dispatch4_displayInRange p st hd
    · exact runEffects_induct (P := fun s t => DisplayInRange s → DisplayInRange t) (fun _ => id)
        (fun _ _ _ hst htu => htu ∘ hst) (fun _ _ _ => runEffect_displayInRange) _ _ _ h hd

/-! ### How each kind of move keeps the invariant -/

theorem blockInv_raise {s : State} {f : FaultRec} (hi : BlockInv s) (hf : ∀ w, f ≠ .counterOverflow w) :
    BlockInv (s.raise f) := by
  obtain ⟨range, display, slots, -⟩ := hi
  exact ⟨range, display, slots, fun w hw => hf w (Option.some.inj hw)⟩

theorem blockInv_resetAll (s : State) : BlockInv s.resetAll :=
  ⟨countersInRange_zero, Nat.zero_le _, fun i => by cases i <;> nofun, nofun⟩

theorem blockInv_setSlot {s : State} (hi : BlockInv s) (i : Chan) (c : Byte) : BlockInv (s.setSlot i (slotOf c)) := by
  obtain ⟨range, display, slots, overflow⟩ := hi
  refine ⟨range, display, fun j => ?_, overflow⟩
  rw [State.setSlot_handlers, PerChan.get_set]
  split
  · exact slotOf_ne_zero c
  · exact slots j

theorem blockInv_setPhase {s : State} (hi : BlockInv s) (i : Chan) (ph : Phase) : BlockInv (s.setPhase i ph) := by
  obtain ⟨range, display, slots, overflow⟩ := hi
  refine ⟨range, display, fun j => ?_, overflow⟩
  rw [State.setPhase_handlers, PerChan.get_set]
  split
  · exact slots i
  · exact slots j

/-- A tick that neither runs nor serves a request keeps the counters; any other brings them into range. -/
theorem blockInv_tick {s : State} (hi : BlockInv s) : BlockInv (s.updPta tickPta) := by
  obtain ⟨range, display, slots, overflow⟩ := hi
  refine ⟨?_, display, slots, overflow⟩
  rw [State.updPta_pta]
  by_cases hflag : s.pta.start = true ∨ s.pta.rstReq = true
  · exact tickPta_inRange hflag
  · rw [not_or, Bool.not_eq_true, Bool.not_eq_true] at hflag
    obtain ⟨hstart, hreq⟩ := hflag
    rwa [tickPta_stopped _ hstart hreq]

/-- A stimulus keeps the invariant where its action keeps it and raises no counter overflow. -/
theorem stimulus_blockInv {act : State → Except FaultRec State} {s t : State} (h : stimulus s act = .next t)
    (hi : BlockInv s) (hok : BlockInv (s.setResult none) → act (s.setResult none) = .ok t → BlockInv t)
    (herr : ∀ w, act (s.setResult none) ≠ .error (.counterOverflow w)) : BlockInv t := by
  obtain ⟨-, h | ⟨f, hf, rfl⟩⟩ := stimulus_next h
  · exact hok hi h
  · exact blockInv_raise hi fun w e => herr w (e ▸ hf)

/-- An `RD` at any address, with a register there or without. -/
theorem read_blockInv {a : Byte} {s t : State} (h : stimulus s (fun s => (memRead a s).map deliver) = .next t)
    (hi : BlockInv s) : BlockInv t := by
  refine stimulus_blockInv h hi (fun hi hok => ?_) fun w hf => ?_
  · obtain ⟨q, hq, rfl⟩ := memRead_deliver hok
    have kept : DisplayInRange q.2 := by
      rw [DisplayInRange, memRead_dsp hq]
      exact displayInRange_of_blockInv hi
    exact blockInv_of_sameOutside hi (sameOutside_setResult _ (memRead_sameOutside hq)) kept
  · cases hq : memRead a (s.setResult none) with
    | ok q => simp [hq, Except.map] at hf
    | error f => simp [hq, Except.map, memRead_error hq] at hf

/-- A `WR` at any address, with a register there or without. -/
theorem write_blockInv {a d : Byte} {s t : State} (h : stimulus s (memWrite a d) = .next t) (hi : BlockInv s) : BlockInv t := by
  refine stimulus_blockInv h hi (fun hi hok => ?_) fun w hf => nomatch memWrite_error hf
  have kept : DisplayInRange t := by
    rw [DisplayInRange, memWrite_dsp hok]
    exact displayInRange_of_blockInv hi
  exact blockInv_of_sameOutside hi (memWrite_sameOutside hok) kept

theorem rdStep_eq_memRead (r : Reg) (s : State) : rdStep r s = stimulus s (fun s => (memRead r.addr s).map deliver) := by
  rw [rdStep, memRead_assigned (Reg.ofAddr_addr r)]

theorem wrStep_eq_memWrite (r : Reg) (d : Byte) (s : State) : wrStep r d s = stimulus s (memWrite r.addr d) := by
  rw [wrStep, memWrite_assigned (Reg.ofAddr_addr r)]

/-- Every stimulus keeps the invariant. -/
theorem exec_blockInv {k : Instr} {s t : State} (h : exec k s = .next t) (hi : BlockInv s) : BlockInv t := by
  cases exec_shape k with
  | read r _ e => exact read_blockInv ((rdStep_eq_memRead r s).symm.trans (e s ▸ h)) hi
  | write r d _ e => exact write_blockInv ((wrStep_eq_memWrite r d s).symm.trans (e s ▸ h)) hi
  | pin i p _ e => exact stimulus_blockInv (e s ▸ h) hi (fun hi hok => by cases hok; exact hi) fun _ hf => by cases hf
  | tick _ e =>
    exact stimulus_blockInv (e s ▸ h) hi (fun hi hok => by cases hok; exact blockInv_tick hi) fun _ hf => by cases hf
  | reset _ e => cases (e s).symm.trans h; exact blockInv_resetAll s
  | setcb i c _ e =>
    refine stimulus_blockInv (e s ▸ h) hi (fun hi hok => ?_) fun w hf => nomatch registerCallback_error hf
    rw [registerCallback_ok hok]
    exact blockInv_setSlot hi i c
  | call i st _ e =>
    refine stimulus_blockInv (e s ▸ h) hi (fun hi hok => ?_) fun w hf => ?_
    · have display := callSlot_displayInRange hok (displayInRange_of_blockInv hi)
      exact blockInv_of_sameOutside hi (callSlot_sameOutside hok) display
    · obtain hf | ⟨a, dir, hf⟩ := callSlot_error hf <;> cases hf

theorem presentWord_blockInv {w : StimWord} {s t : State} (h : presentWord w s = .next t) (hi : BlockInv s) : BlockInv t := by
  obtain ⟨k, -, hk⟩ | ⟨a, -, ha⟩ | ⟨a, d, -, ha⟩ := presentWord_next h
  · exact exec_blockInv hk hi
  · exact read_blockInv ha hi
  · exact write_blockInv ha hi

/-- What an agent does after its stimulus keeps the invariant, whether the stimulus faulted or not. -/
theorem issued_blockInv {k : Instr} {s u v : State} (h : exec k s = .next u) (hi : BlockInv s)
    (ha : BlockInv u → BlockInv v) : BlockInv (if u.fault = none then v else u) := by
  split
  · exact ha (exec_blockInv h hi)
  · exact exec_blockInv h hi

theorem agentTurn_blockInv {may : Bool} {k : Instr} {after : State → State} {s t : State}
    (h : agentTurn may k after s = .next t) (hi : BlockInv s) (ha : ∀ u, BlockInv u → BlockInv (after u)) : BlockInv t := by
  obtain ⟨-, -, rfl⟩ | ⟨-, u, hu, rfl⟩ := agentTurn_next h
  · exact hi
  · exact issued_blockInv hu hi (ha u)

theorem handlerTurn_blockInv {p : Params} {i : Chan} {s t : State} (h : handlerTurn p i s = .next t) (hi : BlockInv s) :
    BlockInv t := by
  obtain ⟨-, rfl⟩ | ⟨-, -, -, -, rfl⟩ | ⟨-, k, u, -, hu, rfl⟩ := handlerTurn_next h
  · exact hi
  · exact blockInv_setPhase hi i .entered
  · exact issued_blockInv hu hi fun hu => blockInv_setPhase hu i _

theorem mainTurn_blockInv {p : Params} {s t : State} (h : mainTurn p s = .next t) (hi : BlockInv s) : BlockInv t := by
  obtain ⟨-, rfl⟩ | ⟨-, i, c, n, b, k, u, -, -, hu, rfl⟩ := mainTurn_next h
  · exact hi
  · exact issued_blockInv hu hi id

/-- Every entry of the schedule keeps the invariant. -/
theorem takeTurn_blockInv {p : Params} {u : Turn} {s t : State} (h : takeTurn p u s = .next t) (hi : BlockInv s) :
    BlockInv t := by
  cases u with
  | stim w => exact presentWord_blockInv h hi
  | init i c => exact agentTurn_blockInv h hi fun _ => id
  | main => exact mainTurn_blockInv h hi
  | readStatus a i => exact agentTurn_blockInv h hi fun _ => id
  | handler i => exact handlerTurn_blockInv h hi

/-- Settles O51: a step takes a turn, which keeps the invariant whatever its kind, or changes only the schedule. -/
theorem stepKeepsTheBlockInvariant : Obligations.StepKeepsTheBlockInvariant := by
  intro s t hi h
  cases hts : s.turns with
  | nil =>
    cases (step_nil hts).symm.trans h
    exact hi
  | cons u rest =>
    have hi' : BlockInv { s with turns := rest } := hi
    obtain h | ⟨-, rfl⟩ := step_cons_next hts h
    · exact takeTurn_blockInv h hi'
    · exact hi'

end Sys2Proof.Machine
end

section
/-! PROOFS. The statements of 43_dispatcher.md: what a `CALL` of each of the two tables does to the dispatcher's state, which status
bytes the tables ignore, and what a caller-supplied callback leaves alone. -/

namespace Sys2Proof.Machine

open Sys2Proof.Safety

/-! ## A `CALL` with a callback in the slot -/

/-- A `CALL` whose callback completes ends where the callback ends. -/
theorem exec_call_completes {i : Chan} {c st : Byte} {s t : State} (hs : healthy s) (hc : (s.handlers.get i).cb = some c)
    (ht : callbackRun Config.params i c st (s.setResult none) = .ok t) : exec (.call i st) s = .next t := by
  have hc' : ((s.setResult none).handlers.get i).cb = some c := hc
  rw [exec_call, stimulus_healthy hs, callSlot_some hc', ht, settle_ok]

theorem exec_call_dispatch2 {i : Chan} {s : State} (hs : healthy s) (hc : (s.handlers.get i).cb = some 0x01#8) (st : Byte) :
    exec (.call i st) s = .next (dispatch2 Config.params st (s.setResult none)) := exec_call_completes hs hc rfl

theorem exec_call_dispatch4 {i : Chan} {s : State} (hs : healthy s) (hc : (s.handlers.get i).cb = some 0x02#8) (st : Byte) :
    exec (.call i st) s = .next (dispatch4 Config.params st (s.setResult none)) := exec_call_completes hs hc rfl

/-! ## The recognised codes (R190, R191) -/

theorem countDisplay_draws {s : State} (hd : s.dsp.displayCounter.toNat ≤ 15) (f : Byte → Byte) :
    (countDisplay f s).draws = s.draws := by
  rw [countDisplay, if_pos hd]
  rfl

/-- Only a display counter out of its range makes the two-button table draw (R190). -/
theorem dispatch2_draws (p : Params) (st : Byte) {s : State} (hd : s.dsp.displayCounter.toNat ≤ 15) :
    (dispatch2 p st s).draws = s.draws := by
  unfold dispatch2
  split
  · exact countDisplay_draws hd incDisplay
  · split
    · exact countDisplay_draws hd decDisplay
    · rfl

/-- Settles O29: the table's effect is on the display counter and the count of the draws, and in range it makes no draw. -/
theorem callRunsTheTwoButtonTable : Obligations.CallRunsTheTwoButtonTable := by
  intro i st s hs hc hd
  obtain ⟨c, n, e, counts⟩ := dispatch2_effect Config.params st (s.setResult none)
  have no_draw : n = s.draws := (congrArg State.draws e).symm.trans (dispatch2_draws Config.params st hd)
  refine ⟨c, ?_, counts hd⟩
  rw [exec_call_dispatch2 hs hc, e, no_draw]
  rfl

/-- Settles O30: the table runs on the state before, with no byte delivered. -/
theorem callRunsTheFourButtonTable : Obligations.CallRunsTheFourButtonTable := by
  intro i st s hs hc
  obtain ⟨v, e, toggles⟩ := dispatch4_effect Config.params st (s.setResult none)
  refine ⟨v, ?_, toggles⟩
  rw [exec_call_dispatch4 hs hc, e]
  rfl

/-! ## Every other status byte (R192) -/

theorem dispatch2_unrecognised {p : Params} {st : Byte} (hinc : st ≠ p.codeInc) (hdec : st ≠ p.codeDec) (s : State) :
    dispatch2 p st s = s := by
  rw [dispatch2, if_neg hinc, if_neg hdec]

theorem dispatch4_unrecognised {p : Params} {st : Byte} (htog : st ≠ p.codeToggle) (s : State) : dispatch4 p st s = s := by
  rw [dispatch4, if_neg htog]

theorem exec_call_dispatch2_unrecognised {i : Chan} {st : Byte} {s : State} (hs : healthy s)
    (hc : (s.handlers.get i).cb = some 0x01#8) (hinc : st ≠ Config.params.codeInc) (hdec : st ≠ Config.params.codeDec) :
    exec (.call i st) s = .next (s.setResult none) := by
  rw [exec_call_dispatch2 hs hc, dispatch2_unrecognised hinc hdec]

theorem exec_call_dispatch4_unrecognised {i : Chan} {st : Byte} {s : State} (hs : healthy s)
    (hc : (s.handlers.get i).cb = some 0x02#8) (htog : st ≠ Config.params.codeToggle) :
    exec (.call i st) s = .next (s.setResult none) := by
  rw [exec_call_dispatch4 hs hc, dispatch4_unrecognised htog]

/-- The popcount clause of R192: it needs of a code only that it has one bit (R8), not its value. -/
theorem ne_of_popcount {st code : Byte} (hst : popcount st ≠ 1) (hcode : popcount code = 1) : st ≠ code := by
  rintro rfl
  exact hst hcode

/-- Settles O31: the recognised codes have one bit each (R8), so the popcount clause falls under the two others. -/
theorem unrecognisedStatusIsIgnored : Obligations.UnrecognisedStatusIsIgnored := by
  intro i st s hs h
  obtain ⟨hc, hinc, hdec⟩ | ⟨hc, htog⟩ | ⟨hc | hc, hpop⟩ := h
  · exact exec_call_dispatch2_unrecognised hs hc hinc hdec
  · exact exec_call_dispatch4_unrecognised hs hc htog
  · exact exec_call_dispatch2_unrecognised hs hc (ne_of_popcount hpop Config.codeInc_one_bit)
      (ne_of_popcount hpop Config.codeDec_one_bit)
  · exact exec_call_dispatch4_unrecognised hs hc (ne_of_popcount hpop Config.codeToggle_one_bit)

/-! ## Caller-supplied callbacks (R193, R194) -/

/-- Settles O32: whatever callback it runs, a `CALL` keeps all that `SameOutside` speaks of, or raises a fault on the state before. -/
theorem callerSuppliedCallbackFrame : Obligations.CallerSuppliedCallbackFrame := by
  intro i c st s hs _ _
  obtain ⟨t, ht⟩ := exec_has_step hs (.call i st)
  refine ⟨t, ht, ?_⟩
  cases exec_effect ht with
  | raised => exact ⟨fun _ => rfl, rfl, rfl, rfl, rfl, rfl, rfl, rfl⟩
  | inside _ _ o =>
    exact ⟨o.pin, o.handlers, o.main, o.turns, o.msElapsed, o.milliseconds, o.seconds, o.minutes⟩

end Sys2Proof.Machine
end

section
/-! PROOFS. The statement of 44_intc_stub.md: what the four accesses of the interrupt-controller stub deliver and store. Its registers
are behind no clock (20_memory.md R69), so none of them faults. -/

namespace Sys2Proof.Machine

open Sys2Proof.Safety

/-- The byte keeps its bits 1:0. -/
theorem low2_getLsbD (d : Byte) {b : Nat} (hb : b < 2) : (low2 d).getLsbD b = bit d b := by
  simp [low2, hb]

/-- Write one to set (R196): an enable is set exactly where it was set or the byte names it. -/
theorem enables_written (e : BitVec 2) (d : Byte) {b : Nat} (hb : b < 2) :
    (e ||| low2 d).getLsbD b = (e.getLsbD b || bit d b) := by
  rw [BitVec.getLsbD_or, low2_getLsbD d hb]

/-- Settles O41: the registers are behind no clock, `readReg` and `writeReg` give the bytes and the stores, and the enables written
are the `or` of the old ones with the byte's bits 1:0. -/
theorem interruptControllerAccesses : Obligations.InterruptControllerAccesses := by
  intro n d s hs
  rw [BitVec.ofNat_toNat]
  exact ⟨exec_read_ungated (r := .seten) hs rfl rfl,
    ⟨s.intc.en ||| low2 d, exec_write_ungated (r := .seten) hs rfl rfl, fun _ hb => enables_written _ d hb⟩,
    exec_read_ungated (r := .pri n) hs rfl rfl, exec_write_ungated (r := .pri n) hs rfl rfl⟩

end Sys2Proof.Machine
end

section
/-! PROOFS. The statements of 60_exceptions.md: what a fault leaves and what ends it, the events that coincide (R213), and the main
line that waits for the handlers (R214). -/

namespace Sys2Proof.Machine

open Sys2Proof.Safety

/-! ## Faults and the way out of them (R205) -/

/-- A stimulus that leaves a state with no fault faulted has raised the fault on it, and done nothing else. -/
theorem exec_raises {k : Instr} {s t : State} (hs : healthy s) (h : exec k s = .next t) (ht : ¬ healthy t) :
    ∃ f, t = s.raise f := by
  cases exec_effect h with
  | raised _ f => exact ⟨f, rfl⟩
  | inside _ _ o => exact absurd (o.fault.trans hs) ht
  | pin | tick | setcb => exact absurd hs ht
  | reset => exact absurd rfl ht

/-- Raising a fault writes the fault and the delivered byte only. -/
theorem raise_undone {s : State} (hs : healthy s) (f : FaultRec) :
    { s.raise f with fault := none, result := s.result } = s := by
  rw [← show s.fault = none from hs]
  rfl

/-- Settles O10: a fault is raised on the state before, `exec` stops in a faulted state off `RESET`, and `RESET` has one outcome in
every state. -/
theorem faultIsTerminalButForReset : Obligations.FaultIsTerminalButForReset := by
  refine ⟨fun k s t hs h ht => ?_, fun _ _ _ hf hk => exec_faulted hf hk, fun s => ⟨s.resetAll, exec_reset s, rfl⟩⟩
  obtain ⟨f, rfl⟩ := exec_raises hs h ht
  exact raise_undone hs f

section
variable {s : State} {f : FaultRec} (hf : s.fault = some f)
include hf

/-- A word that spells a stimulus other than `RESET`, or an illegal access, has no step in a faulted state. -/
theorem presentWord_faulted {w : StimWord} (hr : w ≠ encode .reset) (hw : ∀ why, decode w ≠ .invalid why) :
    presentWord w s = .fault (.halted f) := by
  cases hd : decode w with
  | instr i =>
    have off : i ≠ .reset := by
      rintro rfl
      exact hr (eachInstructionHasOneWord w _ hd).symm
    rw [presentWord_instr hd, exec_faulted hf off]
  | badRead a => rw [presentWord_badRead hd, stimulus_faulted hf]
  | badWrite a d => rw [presentWord_badWrite hd, stimulus_faulted hf]
  | invalid why => exact absurd hd (hw why)

/-- Of the entries of a schedule only the `RESET` word has a step in a faulted state. -/
theorem takeTurn_faulted {u : Turn} (hu : HasNoStepWhenFaulted u) (p : Params) :
    takeTurn p u s = .fault (.halted f) := by
  obtain ⟨hr, hw⟩ := hu
  cases u with
  | stim w => exact presentWord_faulted hf (fun e => hr (congrArg Turn.stim e)) (fun why => hw w why rfl)
  | init i c => exact agentTurn_faulted hf nofun
  | main => exact mainTurn_faulted hf
  | readStatus a i => exact agentTurn_faulted hf nofun
  | handler i => exact handlerTurn_faulted hf

end

/-- The `RESET` word resets the machine in every state. -/
theorem step_reset {s : State} {rest : List Turn} (ht : s.turns = .stim (encode .reset) :: rest) :
    step s = .next (State.resetAll { s with turns := rest }) := by
  rw [step_instr ht (decodeOfEncodeIsTheInstruction .reset), exec_reset, passOver_next]

/-- Settles O11: the entries without a step are passed over, and the `RESET` word has the step of `RESET`. -/
theorem faultedMachineWaitsForReset : Obligations.FaultedMachineWaitsForReset := by
  intro s hs
  obtain ⟨f, hf⟩ := Option.ne_none_iff_exists'.1 hs
  refine ⟨step_nil, fun u rest ht hu => ?_, fun rest ht => ⟨_, step_reset ht, exec_reset _, rfl⟩⟩
  have hf' : { s with turns := rest }.fault = some f := hf
  refine (step_cons ht).trans ?_
  rw [takeTurn_faulted hf' hu, passOver_fault]

/-! ## Events that commute (R213)

`PIN` writes its own channel and counts its own draws, and `TICK` writes the accumulator, so the orders agree field by field. -/

theorem exec_pin_healthy {s : State} {i : Chan} {p : Byte} (hs : healthy s) :
    exec (.pin i p) s = .next (pinEvent i p (s.setResult none)) := by
  rw [exec_pin, stimulus_healthy hs, settle_ok]

/-- A pin event neither reads nor writes the accumulator and the delivered byte. -/
theorem pinEvent_pta_result (i : Chan) (p : Byte) (s : State) (q : Accumulator) (x : Option Byte) :
    pinEvent i p { s with pta := q, result := x } = { pinEvent i p s with pta := q, result := x } := rfl

/-- Settles O43: the pin event commutes with the tick's store. -/
theorem pinAndTickCommute : Obligations.PinAndTickCommute := by
  intro i p s hs
  refine ⟨_, _, _, exec_pin_healthy hs, exec_tick_healthy hs, exec_tick_healthy hs, ?_⟩
  have ticked : healthy { s with pta := tickPta s.pta, result := none } := hs
  rw [exec_pin_healthy ticked]
  exact congrArg Host.Outcome.next (pinEvent_pta_result i p s (tickPta s.pta) none)

/-- Pin events of the two channels commute, draws included: each channel's draw is its own (log entry 3). -/
theorem pinEvent_comm (p q : Byte) (s : State) : pinEvent .c1 q (pinEvent .c0 p s) = pinEvent .c0 p (pinEvent .c1 q s) := rfl

/-- Settles O56: the pin events of the two channels commute. -/
theorem pinsOfBothChannelsCommute : Obligations.PinsOfBothChannelsCommute := by
  intro p q s hs
  refine ⟨_, _, _, exec_pin_healthy hs, exec_pin_healthy hs, exec_pin_healthy hs, ?_⟩
  have second : healthy (pinEvent .c1 q (s.setResult none)) := hs
  rw [exec_pin_healthy second]
  exact congrArg Host.Outcome.next (pinEvent_comm p q (s.setResult none)).symm

/-! ## Events that do not commute (R213) -/

/-- What a pin event leaves of its own channel. -/
theorem pinEvent_eic_same (i : Chan) (p : Byte) (s : State) :
    (pinEvent i p s).eic.get i =
      { s.eic.get i with ris := risAfterPin (s.eic.get i) p (s.drawn (.eic i)), pin := p } := PerChan.get_set_same ..

section
variable {b : Nat} (hb : b < 8)
include hb

/-- An edge raises the flag of its armed pin, whatever the flag was. -/
theorem risAfterPin_edge {c : Channel} {p : Byte} (harmed : armedAt c b) (hlow : bit c.pin b = false)
    (hhigh : bit p b = true) (x : Byte) : bit (risAfterPin c p x) b = true := by
  simp only [bit] at hlow hhigh
  rw [bit, risAfterPin_armed _ _ _ hb harmed, hlow, hhigh, Bool.not_false, Bool.and_self, Bool.or_true]

/-- An acknowledge clears the flag it names, whatever the flag was. -/
theorem risAfterAck_named {d : Byte} (hnamed : bit d b = true) (r : Byte) : bit (risAfterAck r d) b = false := by
  simp only [bit] at hnamed
  rw [bit, risAfterAck_bit _ _ hb, hnamed, Bool.not_true, Bool.and_false]

end

/-- With the port clock on an acknowledge changes its channel's flags and nothing else (R117). -/
theorem exec_wrIcr_clocked {s : State} {i : Chan} {d : Byte} (hs : healthy s) (hc : (s.eic.get i).clken = true) :
    exec (.wrIcr i d) s =
      .next ((s.setResult none).updEic i fun c => { c with ris := risAfterAck c.ris d }) :=
  exec_write_clocked (r := .icr i) hs rfl rfl hc

/-- Settles O44: the later of the two events decides the flag, since the pin event keeps the clock on and the acknowledge keeps the
pin armed and low. -/
theorem edgeAgainstAcknowledgeOrderMatters : Obligations.EdgeAgainstAcknowledgeOrderMatters := by
  intro i p d b s hs hb harmed hlow hhigh hnamed
  have clocked : (s.eic.get i).clken = true := harmed.1.1
  have raised : healthy (pinEvent i p (s.setResult none)) := hs
  have clocked' : ((pinEvent i p (s.setResult none)).eic.get i).clken = true := by rwa [pinEvent_eic_same]
  constructor
  · refine ⟨_, _, exec_pin_healthy hs, exec_wrIcr_clocked raised clocked', ?_⟩
    rw [State.updEic_eic, PerChan.get_set_same]
    exact risAfterAck_named hb hnamed _
  · refine ⟨_, _, exec_wrIcr_clocked hs clocked, exec_pin_healthy hs, ?_⟩
    rw [pinEvent_eic_same, State.setResult_eic, State.updEic_eic, PerChan.get_set_same]
    exact risAfterPin_edge (c := { s.eic.get i with ris := risAfterAck (s.eic.get i).ris d }) hb harmed hlow hhigh _

/-- A running tick that serves no request advances the subdivider, from its last value or above it to 0. -/
theorem tickPta_msElapsed {p : Accumulator} (hs : p.start = true) (hr : p.rstReq = false) :
    (tickPta p).msElapsed.toNat = if 99 ≤ p.msElapsed.toNat then 0 else p.msElapsed.toNat + 1 := by
  have advanced := congrArg Counts.e ((tickPta_counts p hs hr).trans (accumulate_carries _))
  by_cases last : 99 ≤ p.msElapsed.toNat <;> simpa [Accumulator.counts, Counts.carryD, last] using advanced

/-- Settles O57: the write stores bit 0 before or after `tickPta` has looked at its flag. -/
theorem tickAgainstFlagWriteOrderMatters : Obligations.TickAgainstFlagWriteOrderMatters := by
  intro d s hs hd hr
  have wrStart (u : State) (hu : healthy u) := (stopwatchFlagWritesStoreBitZero d u hu).1
  have wrRstreq (u : State) (hu : healthy u) := (stopwatchFlagWritesStoreBitZero d u hu).2
  refine ⟨fun hstopped => ⟨?_, ?_⟩, ?_, ?_⟩
  · refine ⟨_, _, exec_tick_healthy hs, wrStart _ hs, ?_⟩
    rw [tickPta_stopped _ hstopped hr, hd]
  · exact ⟨_, _, wrStart s hs, exec_tick_healthy hs, tickPta_msElapsed hd hr⟩
  · exact ⟨_, _, exec_tick_healthy hs, wrRstreq _ hs, hd⟩
  · exact ⟨_, _, wrRstreq s hs, exec_tick_healthy hs, tickPta_serves _ hd⟩

/-! ## The main line waits for the handlers (R214) -/

/-- A turn of the main line, in whatever it stands, passes while it may take no step. -/
theorem mainTurn_barred {p : Params} {s : State} (hs : healthy s) (hm : mainMay s = false) : mainTurn p s = .next s := by
  unfold mainTurn
  split
  · exact passTurn_healthy hs
  · split
    · rw [hm, agentTurn_passes hs]
    · exact passTurn_healthy hs

theorem beginInit_barred {i : Chan} {c : Byte} {s : State} (hs : healthy s) (hm : mainMay s = false) :
    beginInit i c s = .next s := by
  rw [beginInit, hm, Bool.false_and, agentTurn_passes hs]

theorem readStatusTurn_mainLine_barred {p : Params} {i : Chan} {s : State} (hs : healthy s) (hm : mainMay s = false) :
    readStatusTurn p .mainLine i s = .next s := by
  rw [readStatusTurn, readStatusMay, hm, Bool.false_and, agentTurn_passes hs]

/-- Settles O48: a handler in progress bars each of the main line's three turns. -/
theorem mainLineWaitsForHandlers : Obligations.MainLineWaitsForHandlers := by
  intro s u rest j ht hs hj hu
  have hs' : healthy { s with turns := rest } := hs
  have barred : mainMay { s with turns := rest } = false := by
    refine Bool.eq_false_iff.2 fun may => ?_
    have free : inProgress j s = false := mainMay_iff.1 may j
    simp [hj] at free
  have passes : takeTurn Config.params u { s with turns := rest } = .next { s with turns := rest } := by
    obtain rfl | ⟨i, c, rfl⟩ | ⟨i, rfl⟩ := hu
    · exact mainTurn_barred hs' barred
    · exact beginInit_barred hs' barred
    · exact readStatusTurn_mainLine_barred hs' barred
  refine (step_cons ht).trans ?_
  rw [passes, passOver_next]

end Sys2Proof.Machine
end

section
/-! PROOFS. The statements of 70_reset_and_hazards.md: what `RESET` and launch leave, the bases of the two invariants, and the faulted
run that goes on to a later `RESET` (R251). -/

namespace Sys2Proof.Machine

open Sys2Proof.Safety

/-! ## RESET (R230) -/

/-- Settles O13: `RESET` is `resetAll` in every state, and its value is known element by element. -/
theorem resetReturnsEveryElement : Obligations.ResetReturnsEveryElement := by
  intro s
  refine ⟨s.resetAll, exec_reset s, State.resetAll_eic s, fun i => ?_, rfl, rfl, fun i => ?_, rfl, rfl, rfl⟩
  · rw [State.resetAll_handlers, PerChan.get_both, Handler.zero]
  · rw [State.resetAll_intc, IntCtl.zero, PerChan.get_both]

/-! ## Launch (R231) -/

/-- The launch state is as a `RESET` leaves it: a `RESET` there changes nothing. -/
theorem resetAll_reset : State.reset.resetAll = State.reset := rfl

/-- Settles O12: what `RESET` gives every state it gives the launch state, which it does not change. -/
theorem launchStateHasTheResetColumn : Obligations.LaunchStateHasTheResetColumn := by
  obtain ⟨t, ht, column⟩ := resetReturnsEveryElement State.reset
  rw [exec_reset, resetAll_reset] at ht
  cases ht
  exact column

/-- Settles O52: a reset establishes the block invariant. -/
theorem resetMeetsTheBlockInvariant : Obligations.ResetMeetsTheBlockInvariant := by
  rw [Obligations.ResetMeetsTheBlockInvariant, ← resetAll_reset]
  exact blockInv_resetAll _

/-- Settles O54: a reset establishes the agent invariant. -/
theorem resetMeetsTheAgentInvariant : Obligations.ResetMeetsTheAgentInvariant := by
  rw [Obligations.ResetMeetsTheAgentInvariant, ← resetAll_reset]
  exact agentInv_resetAll _ _

/-! ## A faulted run (R251) -/

/-- A faulted run takes entries without a step off the schedule and does nothing else. -/
theorem run_faulted {us rest : List Turn} (hus : ∀ u ∈ us, HasNoStepWhenFaulted u) {s : State} (hs : ¬ healthy s)
    (ht : s.turns = us ++ rest) : Host.Core.run core us.length s = .next { s with turns := rest } := by
  induction us generalizing s with
  | nil => subst ht; rfl
  | cons u us ih =>
    obtain ⟨hu, hus'⟩ := List.forall_mem_cons.1 hus
    obtain ⟨-, passes, -⟩ := faultedMachineWaitsForReset s hs
    have hs' : ¬ healthy { s with turns := us ++ rest } := hs
    exact (run_succ (M := core) (passes u _ ht hu) us.length).trans (ih hus' hs' rfl)

/-- Settles O60: the entries before the `RESET` word are passed over, and `RESET` then acts on the faulted state. -/
theorem faultedRunGoesOnToReset : Obligations.FaultedRunGoesOnToReset := by
  intro s us rest hs ht hus
  have passed := run_faulted hus hs ht
  refine ⟨State.resetAll { s with turns := rest }, ?_, exec_reset _, rfl, rfl, fun i => ?_⟩
  · calc Host.Core.run core (us.length + 1) s
      _ = Host.Core.run core 1 { s with turns := .stim (encode .reset) :: rest } :=
        run_add (M := core) 1 us.length s passed
      _ = .next (State.resetAll { s with turns := rest }) := run_succ (M := core) (step_reset rfl) 0
  · rw [State.resetAll_eic, Channel.zero]

end Sys2Proof.Machine
end

section
/-! PROOFS. What `RESET` keeps of the fields that are the model's own (log entry 20). -/

namespace Sys2Proof.Machine

/-- Settles O55: `RESET` is `resetAll` in every state, which keeps the counts of draws and the schedule and delivers no byte. -/
theorem resetKeepsDrawsAndTurns : Obligations.ResetKeepsDrawsAndTurns := fun s =>
  ⟨s.resetAll, exec_reset s, s.resetAll_draws, s.resetAll_turns, s.resetAll_result⟩

end Sys2Proof.Machine
end
